-- ==== Sys2Proof/Word.lean ====
section
/-! DEFINITION. The widths the spec fixes: a channel and a file byte are 8 bits (R10), a register and a
command word are 32 bits (R12, R21), and a colour inside CORE is the triple (R, G, B) (R16, R64). -/

namespace Sys2Proof

/-- A byte of IBUF or OBUF, or one 8-bit channel (R10). -/
abbrev Byte := BitVec 8

/-- A command word (R90) or the content of a 32-bit register (R21). -/
abbrev Word := BitVec 32

/-- A pixel or a palette entry: the triple (R, G, B) of three 8-bit channels (R10, R16). -/
structure RGB where
  r : Byte
  g : Byte
  b : Byte
deriving DecidableEq, Repr, Inhabited

/-- The black pixel (0, 0, 0) of R222. -/
abbrev RGB.black : RGB := ⟨0, 0, 0⟩

end Sys2Proof
end

