-- ==== Sys2Proof/Config.lean ====
section
/-! DEFINITION. What the spec leaves to an implementation (R11, R21, U11, U12, U15) and the values it leaves
unspecified (U1, U2): the four capacities, the numerics of the brightness product, and the free values
a host read returns of unspecified state and of locations beyond the range in use. `REG_MAP`, `LOAD_PORT` and `LATENCY` affect no result (R8, U13, U14)
and have no place in the model. -/

namespace Sys2Proof

/-- A capacity of R11: unbounded (`inf`), or a number of bytes, entries or pixels. -/
inductive Capacity where
  | inf
  | atMost (n : Nat)
deriving DecidableEq, Repr

/-- `SCALE_NUMERICS` of R11: how the brightness product is rounded (R204, R205). -/
inductive Numerics where
  | exact
  | binary64
deriving DecidableEq, Repr

/-- The open parameters of R11 that affect a result. A CORE's configuration is fixed: no host action and no
command changes it (R45). -/
structure Config where
  ibufCap : Capacity
  palCap : Capacity
  gridCap : Capacity
  obufCap : Capacity
  numerics : Numerics
deriving DecidableEq, Repr

/-- The configuration of the model's reset state: `exact` is the spec's default (R11, R204); every capacity
`inf`, in which case `CapacityExceeded` never arises (R11). DESIGN CHOICE (log 4): another configuration is
another value of `State.cfg`, over which every statement ranges. -/
def Config.standard : Config :=
  { ibufCap := .inf, palCap := .inf, gridCap := .inf, obufCap := .inf, numerics := .exact }

/-- FREE VALUE (R40, U1; log 5): what the k-th host read of an unspecified 32-bit register returns. -/
opaque Config.freeWord : Nat → Word

/-- FREE VALUE (R40, U1; log 5): what the k-th host read of an unspecified `DIMW`-wide register returns. -/
opaque Config.freeNumber : Nat → Nat

/-- FREE VALUE (R40, U1; log 5): what the k-th host read of an unspecified byte returns. -/
opaque Config.freeByte : Nat → Byte

/-- FREE VALUE (R40, U1; log 5): what the k-th host read of an unspecified pixel or palette entry returns. -/
opaque Config.freePixel : Nat → RGB

/-- The three grid memories a host read can name (R48). -/
inductive GridName where
  | original
  | transformed
  | resampled
deriving DecidableEq, Repr

/-- FREE VALUE (log 17): what byte `a` of IBUF beyond the file answers in IBUF's n-th generation, the same at every read
(R71). -/
opaque Config.restIbuf (n a : Nat) : Byte

/-- FREE VALUE (log 17): the same of byte `a` of OBUF beyond the image. -/
opaque Config.restObuf (n a : Nat) : Byte

/-- FREE VALUE (log 17): the same of entry `i` of PAL beyond the palette. -/
opaque Config.restPal (n i : Nat) : RGB

/-- FREE VALUE (log 17): the same of pixel (x, y) of a grid memory outside the grid. -/
opaque Config.restPixel (n : Nat) (g : GridName) (x y : Nat) : RGB

end Sys2Proof
end

