-- ==== Sys2Proof/Syntax.lean ====
section
/-! DEFINITION. The commands of spec/opcode_table.json, one constructor per row (R95, R122, R123, R170). -/

namespace Sys2Proof

/-- A command. Operands are the mathematical integers and the enable bits of R100; R12 and R18 define the
functions of `XFORM` and `RESIZE` for every integer, and the range a command word can carry is checked by
`Instr.wf`. The rows `PXDEC.24`, `PXDEC.8`, `PXDEC.4`, `PXDEC.1` are the four variants of `PXDEC`, which share
its word (R170; log 10). `XFORM.ID` and `RENDER` are the pseudo-instructions of R123 and R122 (log 11). -/
inductive Instr where
  | hparse
  | palrd
  | pxdec
  | pxdec24
  | pxdec8
  | pxdec4
  | pxdec1
  | xform (bright : Int) (er eg eb : Bool)
  | resize (percent : Int)
  | ppmenc
  | decode
  | xformId
  | render (bright : Int) (er eg eb : Bool) (percent : Int)
deriving DecidableEq, Repr

end Sys2Proof
end

