-- ==== Sys2Proof/WellFormed.lean ====
section
/-! DEFINITION. Which commands can be written down: the operands a 16-bit two's-complement field carries
(R12, R92, R93, R100); R121: "`<bright>` and `<percent>` are integers in -32768 to 32767; the assembler
rejects others". -/

namespace Sys2Proof

/-- `v` is in the range of a 16-bit two's-complement field (R100). -/
def fitsField (v : Int) : Bool := decide (-32768 ≤ v ∧ v ≤ 32767)

/-- The operands of the command fit their fields (R121). Every combination of enables is legal (R202). -/
def Instr.wf : Instr → Bool
  | .hparse => true
  | .palrd => true
  | .pxdec => true
  | .pxdec24 => true
  | .pxdec8 => true
  | .pxdec4 => true
  | .pxdec1 => true
  | .xform bright _ _ _ => fitsField bright
  | .resize percent => fitsField percent
  | .ppmenc => true
  | .decode => true
  | .xformId => true
  | .render bright _ _ _ percent => fitsField bright && fitsField percent

end Sys2Proof
end

