-- ==== Sys2Proof/Decode.lean ====
section
/-! DEFINITION. Command words: `decode`, total on every 32-bit word and rejecting by name (R90 to R96), then
`encode` from the same tables (R91 to R93, R100, R121), and the expansion of the
variants and pseudo-instructions (R122, R123, R170). -/

namespace Sys2Proof

/-- Why a word is illegal (R96). -/
inductive Reject where
  | unassignedOpcode (opc : BitVec 8)
  | reservedBitsSet (word : Word)
deriving DecidableEq, Repr

/-- Bits 31:24, the opcode `OPC` (R90). -/
def opcField (w : Word) : BitVec 8 := w.extractLsb' 24 8

/-- Bits 23:0, `ZERO` of format N (R91). -/
def zeroN (w : Word) : BitVec 24 := w.extractLsb' 0 24

/-- Bits 23:19, `ZERO` of format X (R92). -/
def zeroX (w : Word) : BitVec 5 := w.extractLsb' 19 5

/-- Bits 23:16, `ZERO` of format S (R93). -/
def zeroS (w : Word) : BitVec 8 := w.extractLsb' 16 8

/-- `sext_16(word[15:0])`, the immediate of `XFORM` and of `RESIZE` (R13, R14, R100). -/
def immField (w : Word) : Int := (w.extractLsb' 0 16).toInt

/-- Format N: no operand, bits 23:0 zero (R91). -/
def decodeN (w : Word) (i : Instr) : Except Reject Instr :=
  if zeroN w = 0 then .ok i else .error (.reservedBitsSet w)

/-- Format X: bits 23:19 zero, enables in bits 18, 17, 16, brightness in bits 15:0 (R92, R100). -/
def decodeX (w : Word) : Except Reject Instr :=
  if zeroX w = 0 then .ok (.xform (immField w) (w.getLsbD 18) (w.getLsbD 17) (w.getLsbD 16))
  else .error (.reservedBitsSet w)

/-- Format S: bits 23:16 zero, percentage in bits 15:0 (R93, R100). -/
def decodeS (w : Word) : Except Reject Instr :=
  if zeroS w = 0 then .ok (.resize (immField w)) else .error (.reservedBitsSet w)

/-- The opcode map (R95). Every other value of `OPC` is illegal (R96). -/
def decode (w : Word) : Except Reject Instr :=
  if opcField w = 0x01#8 then decodeN w .hparse
  else if opcField w = 0x02#8 then decodeN w .palrd
  else if opcField w = 0x03#8 then decodeN w .pxdec
  else if opcField w = 0x04#8 then decodeX w
  else if opcField w = 0x05#8 then decodeS w
  else if opcField w = 0x06#8 then decodeN w .ppmenc
  else if opcField w = 0x07#8 then decodeN w .decode
  else .error (.unassignedOpcode (opcField w))

/-- A value in range is placed as `v mod 65536` in bits 15:0 (R100). -/
def immBits (v : Int) : BitVec 16 := BitVec.ofInt 16 v

/-- Format N: opcode and 24 zero bits (R91). -/
def encodeN (opc : BitVec 8) : Word := opc ++ (0 : BitVec 24)

/-- Format X (R92): `{OPC, 00000, ER, EG, EB, BRIGHT}`. -/
def encodeX (bright : Int) (er eg eb : Bool) : Word :=
  0x04#8 ++ (0 : BitVec 5) ++ BitVec.ofBool er ++ BitVec.ofBool eg ++ BitVec.ofBool eb ++ immBits bright

/-- Format S (R93): `{OPC, 00000000, PCT}`. -/
def encodeS (percent : Int) : Word := 0x05#8 ++ (0 : BitVec 8) ++ immBits percent

/-- The command words of an instruction, in the order they are issued (R121). Every command is one word
(R90); the pseudo-instruction `RENDER` is three (R122). -/
def encode : Instr → List Word
  | .hparse => [encodeN 0x01#8]
  | .palrd => [encodeN 0x02#8]
  | .pxdec => [encodeN 0x03#8]
  | .pxdec24 => [encodeN 0x03#8]
  | .pxdec8 => [encodeN 0x03#8]
  | .pxdec4 => [encodeN 0x03#8]
  | .pxdec1 => [encodeN 0x03#8]
  | .xform bright er eg eb => [encodeX bright er eg eb]
  | .resize percent => [encodeS percent]
  | .ppmenc => [encodeN 0x06#8]
  | .decode => [encodeN 0x07#8]
  | .xformId => [encodeX 100 true true true]
  | .render bright er eg eb percent => [encodeX bright er eg eb, encodeS percent, encodeN 0x06#8]

/-- The commands an instruction stands for: itself, or what the spec expands it to (R122, R123); the variants
of `PXDEC` are the command `PXDEC` (R170). -/
def Instr.expand : Instr → List Instr
  | .hparse => [.hparse]
  | .palrd => [.palrd]
  | .pxdec => [.pxdec]
  | .pxdec24 => [.pxdec]
  | .pxdec8 => [.pxdec]
  | .pxdec4 => [.pxdec]
  | .pxdec1 => [.pxdec]
  | .xform bright er eg eb => [.xform bright er eg eb]
  | .resize percent => [.resize percent]
  | .ppmenc => [.ppmenc]
  | .decode => [.decode]
  | .xformId => [.xform 100 true true true]
  | .render bright er eg eb percent => [.xform bright er eg eb, .resize percent, .ppmenc]

/-- The 32-bit command word whose low `nbits` bits are those of `w`, the bits above them 0. -/
def commandWord (nbits w : Nat) : Word := BitVec.ofNat 32 (w % 2 ^ nbits)

/-- The host's question: what the decoder reads from a row's word. A command is one 32-bit word (R90). -/
def decodeTableWord (nbits w : Nat) : Option Instr :=
  match decode (commandWord nbits w) with
  | .ok i => if nbits ≤ 32 then some i else none
  | .error _ => none

end Sys2Proof
end

