-- ==== Sys2Proof/Machine/State.lean ====
section
/-! DEFINITION. The state of CORE as plain data: everything `10_state.md` names (R20 to R39), the configuration
(R11), and the model's own fields for the host's side of the port (R46 to R49; log 1). -/

namespace Sys2Proof.Machine

/-- The contents of one address space (R60): (address, item) pairs, addresses strictly rising
(`Memory.wf`). An unlisted address holds no value (R40, R50; log 3). With `Byte` this is a list of `Host.Cell`. -/
abbrev Memory (α : Type) := List (Nat × α)

/-- The metadata registers, numbers 5 to 13 (R21, R22). `bpp` holds the 16 bits of `META.BPP` that are not
hard-wired to 0; `topdown` is bit 0 of `META.FLAGS`, whose bits 31:1 read 0 (R21, R23; log 6). -/
structure Metadata where
  filesize : Word
  pixoff : Word
  hdrsize : Word
  width : Word
  height : Word
  bpp : BitVec 16
  compression : Word
  palcount : Word
  topdown : Bool
deriving DecidableEq, Repr

/-- `STATUS`, bits 0 to 8 in this order; bits 31:9 read 0 (R29; log 6). -/
structure Status where
  busy : Bool
  ibufValid : Bool
  metaValid : Bool
  palValid : Bool
  ogridValid : Bool
  tgridValid : Bool
  rgridValid : Bool
  obufValid : Bool
  errSeen : Bool
deriving DecidableEq, Repr

/-- `ERR`: `CODE` in bits 7:0, `STAGE` in bits 11:8; bits 31:12 read 0 (R31; log 6). -/
structure ErrReg where
  code : BitVec 8
  stage : BitVec 4
deriving DecidableEq, Repr

/-- The errors of R260, codes 1 to 8 in this order. -/
inductive ErrorKind where
  | invalidFormat
  | unsupportedFeature
  | unsupportedDepth
  | truncatedData
  | paletteIndexOutOfRange
  | capacityExceeded
  | inputNotValid
  | illegalCommand
deriving DecidableEq, Repr

/-- `raise E(info)` of R17: the error and its `ERR_INFO`. -/
structure Raise where
  kind : ErrorKind
  info : Nat
deriving DecidableEq, Repr

/-- A supported depth, the values of `META.BPP` (R10, R170). -/
inductive Depth where
  | d24
  | d8
  | d4
  | d1
deriving DecidableEq, Repr

/-- A PixelGrid as a value (R18, R19): width, height, and the pixels row by row, row 0 the visual top. -/
structure Grid where
  w : Nat
  h : Nat
  px : List RGB
deriving DecidableEq, Repr

/-- What the host does at CORE's boundary (R46 to R49, R300). `writeReg 0 w` is `ISSUE(w)` (R28, R47). -/
inductive HostAction where
  | loadbuf (bytes : List Byte)
  | writeReg (n : BitVec 5) (v : Word)
  | readReg (n : BitVec 5)
  | readIbuf (a : Nat)
  | readPal (i : Nat)
  | readPixel (g : GridName) (x y : Nat)
  | readObuf (a : Nat)
  | reset
deriving DecidableEq, Repr

/-- The host action `ISSUE(word)` (R47): a write of the word to `CMD`, register 0 (R28). -/
abbrev HostAction.issue (w : Word) : HostAction := .writeReg 0 w

/-- What a host read answers (R48): a register as a number, a byte, or a pixel (a triple, R67). -/
inductive HostData where
  | number (v : Nat)
  | byte (b : Byte)
  | pixel (p : RGB)
deriving DecidableEq, Repr

/-- The model's count, memory by memory, of the times its contents in use became others (log 17). -/
structure Generations where
  ibuf : Nat
  pal : Nat
  ogrid : Nat
  tgrid : Nat
  rgrid : Nat
  obuf : Nat
deriving DecidableEq, Repr

/-- The state of CORE (R20). `CMD` has no field: it "holds nothing between commands" (R28). The last four
fields are the model's own (log 1, log 5, log 17). -/
structure State where
  /-- R11, R45: the configuration, fixed for a given CORE (log 4). -/
  cfg : Config
  /-- Registers 5 to 13, `META.*` (R22). -/
  imeta : Metadata
  /-- Register 4, `IBUF_LEN` (R27). -/
  ibufLen : Nat
  /-- Register 14, `PAL_LEN` (R27). -/
  palLen : Word
  /-- Registers 15 and 16, `OG_W`, `OG_H` (R26). -/
  ogW : Nat
  ogH : Nat
  /-- Registers 17 and 18, `TG_W`, `TG_H` (R26). -/
  tgW : Nat
  tgH : Nat
  /-- Registers 19 and 20, `RG_W`, `RG_H` (R26). -/
  rgW : Nat
  rgH : Nat
  /-- Register 21, `OBUF_LEN` (R27). -/
  obufLen : Nat
  /-- Register 1, `STATUS` (R29). -/
  status : Status
  /-- Register 2, `ERR` (R31). -/
  err : ErrReg
  /-- Register 3, `ERR_INFO` (R32). -/
  errInfo : Word
  /-- The input buffer (R34). -/
  ibuf : Memory Byte
  /-- The palette memory (R35). -/
  pal : Memory RGB
  /-- The original grid, pixel (x, y) at index `y * OG_W + x` (R36). -/
  ogrid : Memory RGB
  /-- The transformed grid (R37). -/
  tgrid : Memory RGB
  /-- The resampled grid (R38). -/
  rgrid : Memory RGB
  /-- The output buffer (R39). -/
  obuf : Memory Byte
  /-- The host actions still to come, in the order the host performs them (R78; log 1). -/
  pending : List HostAction
  /-- What the last host read answered (R48; log 1). -/
  hostData : Option HostData
  /-- How many free values host reads have been given (R40; log 5). -/
  freeCount : Nat
  /-- The generation of each memory (R71; log 17). -/
  gens : Generations
deriving DecidableEq, Repr

/-- Why a step ends in a fault. No state of the invariant `Inv` (Sys2Proof/Safety.lean) raises one. -/
inductive Fault where
  /-- A command needs a location of IBUF, PAL or a grid, under a valid flag of 1 and inside the length its
  registers give, that holds no value. Raised by `HPARSE`, `PALRD`, `PXDEC`, `XFORM`, `RESIZE`, `PPMENC` and
  what is made of them, and only in states no run reaches (R34, R40, R41). Safe (log 3). -/
  | unwrittenLocation
  /-- `META_VALID` is 1 and `META.BPP` is not 1, 4, 8 or 24. Raised by `PALRD` and `PXDEC` and what is made of
  them, and only in states no run reaches: "no other value can occur" (R170). Safe (log 14). -/
  | depthNotAdmitted
deriving DecidableEq, Repr

/-- Why a step is refused. -/
inductive Refusal where
  /-- No meaning yet for the instruction of this mnemonic. No arm of `exec` answers so. Safe. -/
  | notModelled (mnemonic : String)
  /-- `LOADBUF` of a file longer than `IBUF_CAP`: "a longer file cannot be loaded and the action does not
  happen" (R46, U11). Raised by the host action, by no command. Safe (log 8). -/
  | fileTooLong
  /-- `LOADBUF` while `BUSY` is 1, which leaves the command's result unspecified (R79, R310, U3). Raised by the
  host action, only in states no run reaches. Safe (log 7). -/
  | loadWhileBusy
deriving DecidableEq, Repr

/-- What a command or a step answers. -/
abbrev Result := Host.Outcome State Fault Refusal

/-- `META.*` after reset: unspecified behind `META_VALID = 0` (R50); the model's value is 0 (log 2). -/
def Metadata.zero : Metadata :=
  { filesize := 0, pixoff := 0, hdrsize := 0, width := 0, height := 0, bpp := 0, compression := 0, palcount := 0
    topdown := false }

/-- `STATUS` after reset: 0 (R50). -/
def Status.zero : Status :=
  { busy := false, ibufValid := false, metaValid := false, palValid := false, ogridValid := false
    tgridValid := false, rgridValid := false, obufValid := false, errSeen := false }

/-- The generations after reset: the model's own count begins at 0 (log 17). -/
def Generations.zero : Generations := { ibuf := 0, pal := 0, ogrid := 0, tgrid := 0, rgrid := 0, obuf := 0 }

/-- A CORE of configuration `c` right after reset (R50, R300): `STATUS`, `ERR` and `ERR_INFO` are 0. Everything
behind a valid flag is unspecified: the model names 0 for a register (log 2) and no value for a memory location
(log 3). No host action is to come (R301). -/
def State.resetOf (c : Config) : State :=
  { cfg := c
    imeta := Metadata.zero
    ibufLen := 0, palLen := 0, ogW := 0, ogH := 0, tgW := 0, tgH := 0, rgW := 0, rgH := 0, obufLen := 0
    status := Status.zero
    err := { code := 0, stage := 0 }
    errInfo := 0
    ibuf := [], pal := [], ogrid := [], tgrid := [], rgrid := [], obuf := []
    pending := [], hostData := none, freeCount := 0, gens := Generations.zero }

/-- The machine right after reset, in the standard configuration (R50, R300; log 4). -/
def State.reset : State := State.resetOf Config.standard

end Sys2Proof.Machine
end

