-- ==== Sys2Proof/Machine/Ops.lean ====
section
/-! DEFINITION. The operations every command is made of: capacities (R11, R268), memory accesses (R16, R60),
ending a command with or without an error (R98, R272), and the frame every command runs in (R98). -/

namespace Sys2Proof.Machine

/-- `n` items fit a memory of this capacity (R11, R268). -/
def fits (c : Capacity) (n : Nat) : Bool :=
  match c with
  | .inf => true
  | .atMost k => decide (n ≤ k)

/-- The constraints of R11 on the four capacities. -/
def configOk (c : Config) : Bool :=
  fits c.ibufCap 54 && fits c.palCap 256 && fits c.gridCap 1 && fits c.obufCap 14

/-- Addresses strictly rise. An unlisted address holds no value, so no listed item equals what it reads as. -/
abbrev Memory.wf {α : Type} (m : Memory α) : Prop := m.Pairwise (fun p q => p.1 < q.1)

/-- The item at an address, or none where nothing has been written (R40). -/
def Memory.read {α : Type} (m : Memory α) (a : Nat) : Option α :=
  match m with
  | [] => none
  | (k, v) :: rest => if k = a then some v else Memory.read rest a

/-- Write one item, keeping the addresses rising. -/
def Memory.write {α : Type} (m : Memory α) (a : Nat) (v : α) : Memory α :=
  match m with
  | [] => [(a, v)]
  | (k, u) :: rest =>
    if a < k then (a, v) :: (k, u) :: rest
    else if a = k then (a, v) :: rest
    else (k, u) :: Memory.write rest a v

/-- Write the items of a list at addresses `a`, `a + 1`, and so on. -/
def Memory.writeAll {α : Type} (m : Memory α) (a : Nat) (items : List α) : Memory α :=
  match items with
  | [] => m
  | v :: rest => Memory.writeAll (Memory.write m a v) (a + 1) rest

/-- Every address below `n` holds a value. -/
def Memory.covers {α : Type} (m : Memory α) (n : Nat) : Prop := ∀ a < n, (Memory.read m a).isSome = true

/-- Run `f` over a list in order, stopping at the first error. -/
def collect {ε α β : Type} (f : α → Except ε β) : List α → Except ε (List β)
  | [] => .ok []
  | x :: xs =>
    match f x with
    | .error e => .error e
    | .ok y =>
      match collect f xs with
      | .error e => .error e
      | .ok ys => .ok (y :: ys)

/-- The items at addresses 0 to `n - 1`, as a sequence (R13). A location that holds no value is a fault
(log 3). -/
def Memory.slice {α : Type} (m : Memory α) (n : Nat) : Except Fault (List α) :=
  collect (fun a =>
    match Memory.read m a with
    | some v => .ok v
    | none => .error .unwrittenLocation) (List.range n)

/-- The numeric error codes of R260. -/
def errorCode : ErrorKind → BitVec 8
  | .invalidFormat => 1
  | .unsupportedFeature => 2
  | .unsupportedDepth => 3
  | .truncatedData => 4
  | .paletteIndexOutOfRange => 5
  | .capacityExceeded => 6
  | .inputNotValid => 7
  | .illegalCommand => 8

/-- `complete(code, stage, info)` of R98: writes `ERR` and `ERR_INFO` (its low 32 bits, R32), sets `ERR_SEEN` when
the code is not 0 (R276), clears `BUSY`. -/
def complete (code : BitVec 8) (stage : BitVec 4) (info : Nat) (s : State) : State :=
  { s with
    err := { code := code, stage := stage }
    errInfo := BitVec.ofNat 32 info
    status := { s.status with errSeen := s.status.errSeen || decide (code ≠ 0), busy := false } }

/-- The command succeeded: `complete(0, 0, 0)` (R98 step 6). -/
def succeed (s : State) : State := complete 0 0 0 s

/-- The one way a command ends in an error (R272): `ERR.CODE` is the error's code, `ERR.STAGE` the unit that raised
it (0 for command decoding and for a missing input, R98), `ERR_INFO` the cause. Nothing is saved and no control
is transferred. There is no return from an error and none is needed (R274). -/
def takeError (e : Raise) (stage : BitVec 4) (s : State) : State := complete (errorCode e.kind) stage e.info s

/-- An illegal command word ends at once: code 8, stage 0, `ERR_INFO` the word, nothing else (R96, R270). -/
def illegalCommand (w : Word) (s : State) : State := takeError ⟨.illegalCommand, w.toNat⟩ 0 s

/-- How a stage's pseudocode ends: with its results written, at a `raise`, or at a fault. -/
inductive StageEnd where
  | done (s : State)
  | raised (e : Raise)
  | stuck (f : Fault)
deriving DecidableEq, Repr

/-- The frame of R98, steps 2 to 6. `missing` is the bit number in `STATUS` of the first input flag that is 0
(R99); `start` clears the flags of the stage's output and of everything after it (step 3); `work` runs the
pseudocode and, where it ends well, writes the output's registers and sets its flag (steps 4 and 5). After a
`raise` the cleared flags stay 0 and what the stage wrote is not observable (R272, R40; log 9). -/
def frame (missing : Option Nat) (start : State → State) (stage : BitVec 4) (work : State → StageEnd)
    (s : State) : Result :=
  match missing with
  | some bit => .next (takeError ⟨.inputNotValid, bit⟩ 0 s)
  | none =>
    match work (start s) with
    | .done t => .next (succeed t)
    | .raised e => .next (takeError e stage (start s))
    | .stuck f => .fault f

/-- Run a command and, where it answers a next state, go on from it. -/
def andThen (r : Result) (k : State → Result) : Result :=
  match r with
  | .next s => k s
  | .fault f => .fault f
  | .refused f => .refused f

end Sys2Proof.Machine
end

