-- ==== Sys2Proof/Machine/Flags.lean ====
section
/-! DEFINITION. The flags of CORE: `STATUS`, `ERR` and `META.FLAGS` as register words (R21, R23, R29, R31), the
chain META, PAL, OGRID, TGRID, RGRID, OBUF and its invalidation (R41), and the input flags of each command
(R99). -/

namespace Sys2Proof.Machine

/-- One bit of a register word. -/
def flagBit (b : Bool) (k : Nat) : Word := if b then BitVec.ofNat 32 (2 ^ k) else 0

/-- `STATUS` as the host reads it (R29). -/
def statusWord (st : Status) : Word :=
  flagBit st.busy 0 ||| flagBit st.ibufValid 1 ||| flagBit st.metaValid 2 ||| flagBit st.palValid 3 |||
  flagBit st.ogridValid 4 ||| flagBit st.tgridValid 5 ||| flagBit st.rgridValid 6 ||| flagBit st.obufValid 7 |||
  flagBit st.errSeen 8

/-- `ERR` as the host reads it (R31). -/
def errWord (e : ErrReg) : Word := (0 : BitVec 20) ++ e.stage ++ e.code

/-- `META.FLAGS` as the host reads it (R21, R23). -/
def metaFlagsWord (m : Metadata) : Word := flagBit m.topdown 0

/-- `META.BPP` as the host reads it: the upper 16 bits are 0 (R21). -/
def bppWord (m : Metadata) : Word := m.bpp.setWidth 32

/-- Clear `OBUF_VALID`. -/
def clearObuf (st : Status) : Status := { st with obufValid := false }

/-- Clear `RGRID_VALID` and everything after it (R41). -/
def clearRgrid (st : Status) : Status := { clearObuf st with rgridValid := false }

/-- Clear `TGRID_VALID` and everything after it (R41). -/
def clearTgrid (st : Status) : Status := { clearRgrid st with tgridValid := false }

/-- Clear `OGRID_VALID` and everything after it (R41). -/
def clearOgrid (st : Status) : Status := { clearTgrid st with ogridValid := false }

/-- Clear `PAL_VALID` and everything after it (R41). -/
def clearPal (st : Status) : Status := { clearOgrid st with palValid := false }

/-- Clear `META_VALID` and everything after it (R41). -/
def clearMeta (st : Status) : Status := { clearPal st with metaValid := false }

/-- The depth `META.BPP` selects (R170). -/
def depthOf (bpp : BitVec 16) : Option Depth :=
  if bpp = 24#16 then some .d24
  else if bpp = 8#16 then some .d8
  else if bpp = 4#16 then some .d4
  else if bpp = 1#16 then some .d1
  else none

/-- `META.BPP <= 8`: the depth has a palette (R99, R152). -/
def indexed (m : Metadata) : Bool := decide (m.bpp.toNat ≤ 8)

/-- `HPARSE` and `DECODE` need `IBUF_VALID` (R99). -/
def missingHparse (st : Status) : Option Nat := if st.ibufValid then none else some 1

/-- `PALRD` needs `IBUF_VALID` and `META_VALID` (R99). -/
def missingPalrd (st : Status) : Option Nat :=
  if !st.ibufValid then some 1 else if !st.metaValid then some 2 else none

/-- `PXDEC` needs `IBUF_VALID`, `META_VALID`, and `PAL_VALID` when `META.BPP <= 8` (R99). -/
def missingPxdec (st : Status) (m : Metadata) : Option Nat :=
  if !st.ibufValid then some 1
  else if !st.metaValid then some 2
  else if indexed m && !st.palValid then some 3
  else none

/-- `XFORM` needs `OGRID_VALID` (R99). -/
def missingXform (st : Status) : Option Nat := if st.ogridValid then none else some 4

/-- `RESIZE` needs `TGRID_VALID` (R99). -/
def missingResize (st : Status) : Option Nat := if st.tgridValid then none else some 5

/-- `PPMENC` needs `RGRID_VALID` (R99). -/
def missingPpmenc (st : Status) : Option Nat := if st.rgridValid then none else some 6

/-- A stage's start: the state with its `STATUS` changed by one of the clearings above (R98 step 3). -/
def startWith (clear : Status → Status) (s : State) : State := { s with status := clear s.status }

end Sys2Proof.Machine
end

