-- ==== Sys2Proof/Machine/Operands.lean ====
section
/-! DEFINITION. What a stage reads and writes: the little-endian reads of a file (R61, R62), the memories and
registers as values of the pure functions (R18, R33), and the outputs written back with their registers and
their flag (R98 step 5). -/

namespace Sys2Proof.Machine

/-- Byte `a` of a file (R16). The commands read only below the length (R70), so the 0 is never read. -/
def byteAt (buf : List Byte) (a : Nat) : Byte := buf.getD a 0

/-- `MemRead(addr, n)`: the little-endian unsigned number of `n` bytes (R61). -/
def memRead (buf : List Byte) (addr : Nat) : Nat → Nat
  | 0 => 0
  | n + 1 => (byteAt buf addr).toNat + 256 * memRead buf (addr + 1) n

/-- `sext_32`: two's complement (R14, R62). -/
def sext32 (v : Nat) : Int := if v < 2 ^ 31 then (v : Int) else (v : Int) - 2 ^ 32

/-- The triple of three file bytes in the order Blue, Green, Red at `a` (R64). -/
def bgrAt (buf : List Byte) (a : Nat) : RGB := ⟨byteAt buf (a + 2), byteAt buf (a + 1), byteAt buf a⟩

/-- Pixel (x, y) of a grid, row-major (R36). The commands read only inside the grid (R70), so the default is
never read. -/
def pixelAt (g : Grid) (x y : Nat) : RGB := g.px.getD (y * g.w + x) RGB.black

/-- Row `y` of a grid. -/
def gridRow (g : Grid) (y : Nat) : List RGB := (List.range g.w).map (fun x => pixelAt g x y)

/-- The loaded file, `IBUF[0]` to `IBUF[IBUF_LEN - 1]` (R34). -/
def fileOf (s : State) : Except Fault (List Byte) := Memory.slice s.ibuf s.ibufLen

/-- The palette, `PAL[0]` to `PAL[PAL_LEN - 1]` (R35). -/
def paletteOf (s : State) : Except Fault (List RGB) := Memory.slice s.pal s.palLen.toNat

/-- A grid memory with its dimension registers as a value (R26, R36). -/
def gridOf (m : Memory RGB) (w h : Nat) : Except Fault Grid :=
  match Memory.slice m (w * h) with
  | .ok px => .ok ⟨w, h, px⟩
  | .error f => .error f

/-- OGRID, `OG_W`, `OG_H` (R36). -/
def ogridOf (s : State) : Except Fault Grid := gridOf s.ogrid s.ogW s.ogH

/-- TGRID, `TG_W`, `TG_H` (R37). -/
def tgridOf (s : State) : Except Fault Grid := gridOf s.tgrid s.tgW s.tgH

/-- RGRID, `RG_W`, `RG_H` (R38). -/
def rgridOf (s : State) : Except Fault Grid := gridOf s.rgrid s.rgW s.rgH

/-- The encoded image, `OBUF[0]` to `OBUF[OBUF_LEN - 1]` (R39, R246). -/
def imageOf (s : State) : Except Fault (List Byte) := Memory.slice s.obuf s.obufLen

/-- `META.WIDTH` as a number of columns. A valid one is at least 1 (R22); a negative one, in a state no run
reaches, counts as 0 (log 15). -/
def widthOf (m : Metadata) : Nat := m.width.toInt.toNat

/-- `META.HEIGHT`, unsigned (R21, R23). -/
def heightOf (m : Metadata) : Nat := m.height.toNat

/-- `HPARSE` writes `META.*` and sets `META_VALID` (R99, R131). -/
def storeMeta (m : Metadata) (s : State) : State :=
  { s with imeta := m, status := { s.status with metaValid := true } }

/-- `PALRD` writes PAL and `PAL_LEN` and sets `PAL_VALID` (R99, R151). -/
def storePal (p : List RGB) (s : State) : State :=
  { s with
    pal := Memory.writeAll s.pal 0 p
    palLen := BitVec.ofNat 32 p.length
    status := { s.status with palValid := true } }

/-- `PXDEC` writes OGRID, `OG_W`, `OG_H` and sets `OGRID_VALID` (R99, R166). -/
def storeOgrid (g : Grid) (s : State) : State :=
  { s with
    ogrid := Memory.writeAll s.ogrid 0 g.px
    ogW := g.w
    ogH := g.h
    status := { s.status with ogridValid := true } }

/-- `XFORM` writes TGRID, `TG_W`, `TG_H` and sets `TGRID_VALID` (R99, R201). -/
def storeTgrid (g : Grid) (s : State) : State :=
  { s with
    tgrid := Memory.writeAll s.tgrid 0 g.px
    tgW := g.w
    tgH := g.h
    status := { s.status with tgridValid := true } }

/-- `RESIZE` writes RGRID, `RG_W`, `RG_H` and sets `RGRID_VALID` (R99, R221). -/
def storeRgrid (g : Grid) (s : State) : State :=
  { s with
    rgrid := Memory.writeAll s.rgrid 0 g.px
    rgW := g.w
    rgH := g.h
    status := { s.status with rgridValid := true } }

/-- `PPMENC` writes OBUF and `OBUF_LEN` and sets `OBUF_VALID` (R99, R241). -/
def storeObuf (bytes : List Byte) (s : State) : State :=
  { s with
    obuf := Memory.writeAll s.obuf 0 bytes
    obufLen := bytes.length
    status := { s.status with obufValid := true } }

/-- A stage that reads one value and either raises or writes one result. -/
def runStage {α β : Type} (input : Except Fault α) (f : α → Except Raise β) (store : β → State → State)
    (s : State) : StageEnd :=
  match input with
  | .error e => .stuck e
  | .ok x =>
    match f x with
    | .error e => .raised e
    | .ok y => .done (store y s)

end Sys2Proof.Machine
end

