-- ==== Sys2Proof/Machine/HeaderParser.lean ====
section
/-! DEFINITION. The first unit, HeaderParser, and its command `HPARSE` (40_header_parser.md, R130 to R144). -/

namespace Sys2Proof.Machine

/-- The palette-entry count with its default: `2^depth` when the field is 0 and the depth is at most 8 (R24). -/
def palcountOf (bpp n : Nat) : Nat := if bpp ≤ 8 ∧ n = 0 then 2 ^ bpp else n

/-- The nine `META` values of a header that passed every check (R131, R135, R139; height and direction R23). -/
def headerFields (buf : List Byte) : Metadata :=
  let h := sext32 (memRead buf 22 4)
  let bpp := memRead buf 28 2
  { filesize := BitVec.ofNat 32 (memRead buf 2 4)
    pixoff := BitVec.ofNat 32 (memRead buf 10 4)
    hdrsize := BitVec.ofNat 32 (memRead buf 14 4)
    width := BitVec.ofInt 32 (sext32 (memRead buf 18 4))
    height := BitVec.ofNat 32 h.natAbs
    bpp := BitVec.ofNat 16 bpp
    compression := BitVec.ofNat 32 (memRead buf 30 4)
    palcount := BitVec.ofNat 32 (palcountOf bpp (memRead buf 46 4))
    topdown := decide (h < 0) }

/-- `parse_header` (R130): length, magic "BM", compression, depth, geometry, in this order (R132 to R138). Nothing
else is validated (R141). -/
def parseHeader (buf : List Byte) : Except Raise Metadata :=
  if buf.length < 54 then .error ⟨.invalidFormat, 1⟩
  else if byteAt buf 0 ≠ 0x42#8 ∨ byteAt buf 1 ≠ 0x4D#8 then .error ⟨.invalidFormat, 2⟩
  else if memRead buf 30 4 ≠ 0 then .error ⟨.unsupportedFeature, memRead buf 30 4⟩
  else if memRead buf 28 2 ∉ [1, 4, 8, 24] then .error ⟨.unsupportedDepth, memRead buf 28 2⟩
  else if sext32 (memRead buf 18 4) ≤ 0 ∨ sext32 (memRead buf 22 4) = 0 then .error ⟨.invalidFormat, 3⟩
  else .ok (headerFields buf)

/-- The work of `HPARSE`, stage 1 (R131). -/
def hparseWork (s : State) : StageEnd := runStage (fileOf s) parseHeader storeMeta s

/-- `HPARSE` under the frame (R98, R99, R131). -/
def hparseCommand (s : State) : Result :=
  frame (missingHparse s.status) (startWith clearMeta) 1 hparseWork s

/-- `HPARSE` (R131). -/
def execHparse (s : State) : Result := hparseCommand s

end Sys2Proof.Machine
end

