-- ==== Sys2Proof/Machine/PaletteReader.lean ====
section
/-! DEFINITION. The second unit, PaletteReader, and its command `PALRD` (41_palette_reader.md, R150 to R158). -/

namespace Sys2Proof.Machine

/-- The file offset of the colour table, `14 + META.HDRSIZE`, in exact arithmetic (R102, R153, R77). -/
def paletteBase (m : Metadata) : Nat := 14 + m.hdrsize.toNat

/-- `read_palette` (R150): the extent test, the capacity test, then every entry with its channels swapped from
B, G, R; the fourth byte is not read (R153, R154, R155). -/
def readPalette (cap : Capacity) (m : Metadata) (buf : List Byte) : Except Raise (List RGB) :=
  let n := m.palcount.toNat
  if buf.length < paletteBase m + 4 * n then .error ⟨.truncatedData, 1⟩
  else if !fits cap n then .error ⟨.capacityExceeded, 1⟩
  else .ok ((List.range n).map (fun i => bgrAt buf (paletteBase m + 4 * i)))

/-- Step 3 of `PALRD`: at depth ≤ 8 clear `PAL_VALID` and everything after it, at depth 24 nothing (R99, R156). -/
def palrdStart (s : State) : State := if indexed s.imeta then startWith clearPal s else s

/-- The work of `PALRD`, stage 2: nothing at depth 24 (R156), else the colour table (R151). -/
def palrdWork (s : State) : StageEnd :=
  match depthOf s.imeta.bpp with
  | none => .stuck .depthNotAdmitted
  | some .d24 => .done s
  | some _ => runStage (fileOf s) (readPalette s.cfg.palCap s.imeta) storePal s

/-- `PALRD` under the frame (R98, R99, R151). -/
def palrdCommand (s : State) : Result := frame (missingPalrd s.status) palrdStart 2 palrdWork s

/-- `PALRD` (R151). -/
def execPalrd (s : State) : Result := palrdCommand s

end Sys2Proof.Machine
end

