-- ==== Sys2Proof/Machine/PixelDecoder.lean ====
section
/-! DEFINITION. The third unit, PixelDecoder: the command `PXDEC` with its four depth variants, and the composite
`DECODE` (42_pixel_decoder.md, R165 to R186). -/

namespace Sys2Proof.Machine

/-- `row_bytes(d, W)` (R167). -/
def rowBytes (d : Depth) (w : Nat) : Nat :=
  match d with
  | .d24 => 3 * w
  | .d8 => w
  | .d4 => (w + 1) / 2
  | .d1 => (w + 7) / 8

/-- `padded_row_size(rb)`: rounded up to a multiple of 4 (R167). -/
def paddedRowSize (rb : Nat) : Nat := 4 * ((rb + 3) / 4)

/-- `lookup(i)`: an index at or beyond the palette's length is an error, never a clamp (R175). -/
def lookup (pal : List RGB) (i : Nat) : Except Raise RGB :=
  match pal[i]? with
  | some p => .ok p
  | none => .error ⟨.paletteIndexOutOfRange, i⟩

/-- The palette index of column `x` at depth 8: one byte a pixel (R104, R172). -/
def index8 (buf : List Byte) (b x : Nat) : Nat := (byteAt buf (b + x)).toNat

/-- The palette index of column `x` at depth 4: the high nibble for an even column, the low one for an odd one
(R65, R105, R173). -/
def index4 (buf : List Byte) (b x : Nat) : Nat :=
  let v := byteAt buf (b + x / 2)
  if x % 2 = 0 then (v.extractLsb' 4 4).toNat else (v.extractLsb' 0 4).toNat

/-- The palette index of column `x` at depth 1: bit `7 - x mod 8` of its byte (R65, R106, R174). -/
def index1 (buf : List Byte) (b x : Nat) : Nat :=
  ((byteAt buf (b + x / 8)).getLsbD (7 - x % 8)).toNat

/-- `pixel_24(b, x)`: three bytes B, G, R; no palette, no error (R103, R171). -/
def pixel24 (buf : List Byte) (b x : Nat) : RGB := bgrAt buf (b + 3 * x)

/-- `pixel_8(b, x)` (R172). -/
def pixel8 (buf : List Byte) (pal : List RGB) (b x : Nat) : Except Raise RGB := lookup pal (index8 buf b x)

/-- `pixel_4(b, x)` (R173). -/
def pixel4 (buf : List Byte) (pal : List RGB) (b x : Nat) : Except Raise RGB := lookup pal (index4 buf b x)

/-- `pixel_1(b, x)` (R174). -/
def pixel1 (buf : List Byte) (pal : List RGB) (b x : Nat) : Except Raise RGB := lookup pal (index1 buf b x)

/-- `pixel_d(b, x)`, the row decoder a depth selects (R170). -/
def pixelOf (d : Depth) (buf : List Byte) (pal : List RGB) (b x : Nat) : Except Raise RGB :=
  match d with
  | .d24 => .ok (pixel24 buf b x)
  | .d8 => pixel8 buf pal b x
  | .d4 => pixel4 buf pal b x
  | .d1 => pixel1 buf pal b x

/-- The size of one stored scanline, padding included (R107, R167). -/
def scanline (d : Depth) (m : Metadata) : Nat := paddedRowSize (rowBytes d (widthOf m))

/-- The offset of file row `r` (R168). -/
def rowOffset (d : Depth) (m : Metadata) (r : Nat) : Nat := m.pixoff.toNat + r * scanline d m

/-- File row `r`: its columns 0 to `W - 1` in order, padding never looked at (R177). -/
def decodeRow (d : Depth) (m : Metadata) (pal : List RGB) (buf : List Byte) (r : Nat) :
    Except Raise (List RGB) :=
  collect (pixelOf d buf pal (rowOffset d m r)) (List.range (widthOf m))

/-- Rows in file order, row-reversed if and only if the stored height was positive (R76, R178). -/
def topDown (m : Metadata) (rows : List (List RGB)) : List RGB :=
  if m.topdown then rows.flatten else rows.reverse.flatten

/-- `decode_pixels` (R165): the extent test, the capacity test, then the pixels in file order, the first bad
index reported (R166, R169, R176, R179). -/
def decodePixels (cap : Capacity) (d : Depth) (m : Metadata) (pal : List RGB) (buf : List Byte) :
    Except Raise Grid :=
  if buf.length < m.pixoff.toNat + heightOf m * scanline d m then .error ⟨.truncatedData, 2⟩
  else if !fits cap (widthOf m * heightOf m) then .error ⟨.capacityExceeded, 2⟩
  else
    match collect (decodeRow d m pal buf) (List.range (heightOf m)) with
    | .error e => .error e
    | .ok rows => .ok ⟨widthOf m, heightOf m, topDown m rows⟩

/-- The palette a depth consults: none at depth 24, PAL otherwise (R33, R171). -/
def paletteFor (d : Depth) (s : State) : Except Fault (List RGB) :=
  match d with
  | .d24 => .ok []
  | .d8 => paletteOf s
  | .d4 => paletteOf s
  | .d1 => paletteOf s

/-- The work of `PXDEC` at a depth (R166). -/
def pxdecAt (d : Depth) (s : State) : StageEnd :=
  match paletteFor d s with
  | .error f => .stuck f
  | .ok pal => runStage (fileOf s) (decodePixels s.cfg.gridCap d s.imeta pal) storeOgrid s

/-- The work of `PXDEC`, stage 3: the variant is selected by `META.BPP` (R170). -/
def pxdecWork (s : State) : StageEnd :=
  match depthOf s.imeta.bpp with
  | none => .stuck .depthNotAdmitted
  | some d => pxdecAt d s

/-- `PXDEC` under the frame (R98, R99, R166). -/
def pxdecCommand (s : State) : Result :=
  frame (missingPxdec s.status s.imeta) (startWith clearOgrid) 3 pxdecWork s

/-- `PXDEC` (R166). -/
def execPxdec (s : State) : Result := pxdecCommand s

/-- `PXDEC.24`, the row decoder at depth 24 (R171). Its word is `PXDEC`'s, and `META.BPP` selects the variant that
runs (R170; log 10). -/
def execPxdec24 (s : State) : Result := pxdecCommand s

/-- `PXDEC.8`, the row decoder at depth 8 (R172). Its word is `PXDEC`'s (R170; log 10). -/
def execPxdec8 (s : State) : Result := pxdecCommand s

/-- `PXDEC.4`, the row decoder at depth 4 (R173). Its word is `PXDEC`'s (R170; log 10). -/
def execPxdec4 (s : State) : Result := pxdecCommand s

/-- `PXDEC.1`, the row decoder at depth 1 (R174). Its word is `PXDEC`'s (R170; log 10). -/
def execPxdec1 (s : State) : Result := pxdecCommand s

/-- Go on with the next part of a composite unless the last part ended in error (R186). -/
def unlessError (k : State → Result) (s : State) : Result := if s.err.code = 0 then k s else .next s

/-- `DECODE` (R186): `HPARSE`, then `PALRD` if `META.BPP <= 8`, then `PXDEC`, each under the frame, stopping at the
first that ends in error. The state after it is the state after the parts issued one by one. -/
def decodeCommand (s : State) : Result :=
  andThen (hparseCommand s) (unlessError fun s1 =>
    if indexed s1.imeta then andThen (palrdCommand s1) (unlessError pxdecCommand) else pxdecCommand s1)

/-- `DECODE` (R186). -/
def execDecode (s : State) : Result := decodeCommand s

end Sys2Proof.Machine
end

