-- ==== Sys2Proof/Machine/PixelTransformer.lean ====
section
/-! DEFINITION. The fourth unit, PixelTransformer: the brightness product under both numerics, and the command
`XFORM` with the pseudo-instruction `XFORM.ID` (43_pixel_transformer.md, R200 to R213; R123). -/

namespace Sys2Proof.Machine

/-- `clamp(v, 0, 255)` as a channel (R14, R206). -/
def clampChannel (v : Int) : Byte := BitVec.ofNat 8 (min 255 (max 0 v)).toNat

/-- `SCALE_NUMERICS = exact`: `trunc(c * bright / 100)` over the integers (R204). -/
def scaledExact (c : Nat) (bright : Int) : Int := ((c : Int) * bright).tdiv 100

/-- A binary64 number as sign and magnitude: `mant * 2^pow`, `mant / 2^down` put together so that both powers are
natural numbers: the value is `mant * 2^up / 2^down`. -/
structure Double where
  neg : Bool
  mant : Nat
  up : Nat
  down : Nat
deriving DecidableEq, Repr

/-- The quotient `n / d` rounded to the nearest integer, ties to even (K3). -/
def divNearestEven (n d : Nat) : Nat :=
  let q := n / d
  let r := n % d
  if d < 2 * r then q + 1
  else if 2 * r = d then q + q % 2
  else q

/-- `RN(n / d)`, the rational rounded to a 53-bit significand, to nearest, ties to even (R205, K3). The operands
of R205 lie far inside the normal range of binary64, so the exponent is not bounded here (log 12). -/
def roundDouble (neg : Bool) (n d : Nat) : Double :=
  if n = 0 then ⟨neg, 0, 0, 0⟩
  else
    -- n / d * 2^(guess) lies in [2^51, 2^53): one more doubling where it is below 2^52
    let guess : Int := 52 + (d.log2 : Int) - (n.log2 : Int)
    let small : Bool := decide (n * 2 ^ guess.toNat < 2 ^ 52 * (d * 2 ^ (-guess).toNat))
    let k : Int := if small then guess + 1 else guess
    ⟨neg, divNearestEven (n * 2 ^ k.toNat) (d * 2 ^ (-k).toNat), (-k).toNat, k.toNat⟩

/-- `trunc` of a double (R14). -/
def truncDouble (x : Double) : Int :=
  let v : Nat := x.mant * 2 ^ x.up / 2 ^ x.down
  if x.neg then -(v : Int) else v

/-- `q = RN(bright / 100)` (R205). -/
def factorDouble (bright : Int) : Double := roundDouble (decide (bright < 0)) bright.natAbs 100

/-- `t = RN(c * q)`, truncated (R205). -/
def scaledDouble (c : Nat) (bright : Int) : Int :=
  let q := factorDouble bright
  truncDouble (roundDouble q.neg (c * (q.mant * 2 ^ q.up)) (2 ^ q.down))

/-- `scale(c, bright)` of R203 under the configured numerics: truncate toward zero, then clamp (R204 to R206). -/
def scale (num : Numerics) (c : Byte) (bright : Int) : Byte :=
  match num with
  | .exact => clampChannel (scaledExact c.toNat bright)
  | .binary64 => clampChannel (scaledDouble c.toNat bright)

/-- `chan(c, e, bright)`: a disabled channel is 0, an enabled one is scaled (R201, R202, R207). -/
def chan (num : Numerics) (c : Byte) (enable : Bool) (bright : Int) : Byte :=
  if enable then scale num c bright else 0

/-- One pixel of `XFORM`; the channels are independent lanes (R201, R212). -/
def transformPixel (num : Numerics) (bright : Int) (er eg eb : Bool) (p : RGB) : RGB :=
  ⟨chan num p.r er bright, chan num p.g eg bright, chan num p.b eb bright⟩

/-- `transform(grid, bright, er, eg, eb)` (R200), defined for every integer `bright` (R12). -/
def transform (num : Numerics) (bright : Int) (er eg eb : Bool) (g : Grid) : Grid :=
  ⟨g.w, g.h, g.px.map (transformPixel num bright er eg eb)⟩

/-- The work of `XFORM`, stage 4: it reads OGRID and nothing else and never errs (R201, R208, R266). -/
def xformWork (bright : Int) (er eg eb : Bool) (s : State) : StageEnd :=
  runStage (ogridOf s) (fun g => .ok (transform s.cfg.numerics bright er eg eb g)) storeTgrid s

/-- `XFORM` under the frame (R98, R99, R201). -/
def xformCommand (bright : Int) (er eg eb : Bool) (s : State) : Result :=
  frame (missingXform s.status) (startWith clearTgrid) 4 (xformWork bright er eg eb) s

/-- `XFORM <bright>, <chans>` (R201). -/
def execXform (bright : Int) (er eg eb : Bool) (s : State) : Result := xformCommand bright er eg eb s

/-- `XFORM.ID`, which expands to `XFORM 100, RGB` (R123; log 11). -/
def execXformId (s : State) : Result := xformCommand 100 true true true s

end Sys2Proof.Machine
end

