-- ==== Sys2Proof/Machine/Resampler.lean ====
section
/-! DEFINITION. The fifth unit, Resampler, and its command `RESIZE` (44_resampler.md, R220 to R231). -/

namespace Sys2Proof.Machine

/-- A new dimension for `percent >= 1`: `max(1, floor(n * percent / 100))`, exact (R223, R229). -/
def newDim (n percent : Nat) : Nat := max 1 (n * percent / 100)

/-- The source coordinate of target `x`: `floor(x * n / new)` (R224). -/
def sourceCoord (n new x : Nat) : Nat := x * n / new

/-- The target grid of size `nw` by `nh`: every pixel a copy of one source pixel (R224, R226). -/
def resample (g : Grid) (nw nh : Nat) : Grid :=
  ⟨nw, nh, (List.range nh).flatMap fun y =>
    (List.range nw).map fun x => pixelAt g (sourceCoord g.w nw x) (sourceCoord g.h nh y)⟩

/-- `resize(grid, percent)` (R220), defined for every integer: a 1x1 black grid for `percent <= 0`, no error
(R222), else the capacity test and the mapping (R223, R224, R228). -/
def resize (cap : Capacity) (percent : Int) (g : Grid) : Except Raise Grid :=
  if percent ≤ 0 then .ok ⟨1, 1, [RGB.black]⟩
  else
    let nw := newDim g.w percent.toNat
    let nh := newDim g.h percent.toNat
    if !fits cap (nw * nh) then .error ⟨.capacityExceeded, 3⟩ else .ok (resample g nw nh)

/-- The work of `RESIZE`, stage 5 (R221). For `percent <= 0` TGRID "is not read ... beyond the precondition"
(R222). -/
def resizeWork (percent : Int) (s : State) : StageEnd :=
  if percent ≤ 0 then .done (storeRgrid ⟨1, 1, [RGB.black]⟩ s)
  else runStage (tgridOf s) (resize s.cfg.gridCap percent) storeRgrid s

/-- `RESIZE` under the frame (R98, R99, R221). -/
def resizeCommand (percent : Int) (s : State) : Result :=
  frame (missingResize s.status) (startWith clearRgrid) 5 (resizeWork percent) s

/-- `RESIZE <percent>` (R221). -/
def execResize (percent : Int) (s : State) : Result := resizeCommand percent s

end Sys2Proof.Machine
end

