-- ==== Sys2Proof/Machine/PixmapEncoder.lean ====
section
/-! DEFINITION. The sixth unit, PixmapEncoder, its command `PPMENC` (45_pixmap_encoder.md, R240 to R251), and the
pseudo-instruction `RENDER` that ends in it (R122). -/

namespace Sys2Proof.Machine

/-- The ASCII digit of a number below 10 (R116, R117). -/
def digit (n : Nat) : Byte := BitVec.ofNat 8 (0x30 + n)

/-- The decimal digits of `n`, most significant first; `fuel` bounds how many there can be. -/
def decimal (fuel n : Nat) : List Byte :=
  match fuel with
  | 0 => []
  | f + 1 => if n < 10 then [digit n] else decimal f (n / 10) ++ [digit (n % 10)]

/-- `dec(n)`: the decimal numeral of `n`, no sign, no leading zero, no padding (R116). `n + 1` digits always
suffice. -/
def dec (n : Nat) : List Byte := decimal (n + 1) n

/-- The header `"P6\n<W> <H>\n255\n"` (R115, R242). -/
def ppmHeader (w h : Nat) : List Byte :=
  [0x50#8, 0x36#8, 0x0A#8] ++ dec w ++ [0x20#8] ++ dec h ++ [0x0A#8] ++ [0x32#8, 0x35#8, 0x35#8, 0x0A#8]

/-- The body: the bytes R, G, B of each pixel in row-major order, no padding (R66, R243). -/
def ppmBody (px : List RGB) : List Byte := px.flatMap fun p => [p.r, p.g, p.b]

/-- `ppm(W, H, px)`, the value of `encode` (R115, R240). -/
def ppm (g : Grid) : List Byte := ppmHeader g.w g.h ++ ppmBody g.px

/-- The length `L` of the output, header and body (R118, R241). -/
def ppmLength (w h : Nat) : Nat := (ppmHeader w h).length + 3 * w * h

/-- `encode` with the capacity test of R245, made before any byte is written. -/
def encodePpm (cap : Capacity) (g : Grid) : Except Raise (List Byte) :=
  if !fits cap (ppmLength g.w g.h) then .error ⟨.capacityExceeded, 4⟩ else .ok (ppm g)

/-- The work of `PPMENC`, stage 6 (R241). -/
def ppmencWork (s : State) : StageEnd := runStage (rgridOf s) (encodePpm s.cfg.obufCap) storeObuf s

/-- `PPMENC` under the frame (R98, R99, R241). -/
def ppmencCommand (s : State) : Result :=
  frame (missingPpmenc s.status) (startWith clearObuf) 6 ppmencWork s

/-- `PPMENC` (R241). -/
def execPpmenc (s : State) : Result := ppmencCommand s

/-- `RENDER <bright>, <chans>, <percent>`: `XFORM`, `RESIZE`, `PPMENC`, in this order, each issued whatever became
of the one before (R122; log 11). -/
def execRender (bright : Int) (er eg eb : Bool) (percent : Int) (s : State) : Result :=
  andThen (xformCommand bright er eg eb s) fun s1 => andThen (resizeCommand percent s1) ppmencCommand

end Sys2Proof.Machine
end

