-- ==== Sys2Proof/Machine/Dispatch.lean ====
section
/-! DEFINITION. The meaning of each command: one arm per row of spec/opcode_table.json. -/

namespace Sys2Proof.Machine

def exec (i : Instr) (s : State) : Host.Outcome State Fault Refusal :=
  match i with
  | .hparse => Sys2Proof.Machine.execHparse s
  | .palrd => Sys2Proof.Machine.execPalrd s
  | .pxdec => Sys2Proof.Machine.execPxdec s
  | .pxdec24 => Sys2Proof.Machine.execPxdec24 s
  | .pxdec8 => Sys2Proof.Machine.execPxdec8 s
  | .pxdec4 => Sys2Proof.Machine.execPxdec4 s
  | .pxdec1 => Sys2Proof.Machine.execPxdec1 s
  | .xform bright er eg eb => Sys2Proof.Machine.execXform bright er eg eb s
  | .resize percent => Sys2Proof.Machine.execResize percent s
  | .ppmenc => Sys2Proof.Machine.execPpmenc s
  | .decode => Sys2Proof.Machine.execDecode s
  | .xformId => Sys2Proof.Machine.execXformId s
  | .render bright er eg eb percent => Sys2Proof.Machine.execRender bright er eg eb percent s

end Sys2Proof.Machine
end

