-- ==== Sys2Proof/Machine/HostPort.lean ====
section
/-! DEFINITION. CORE's boundary: the host actions `LOADBUF`, `ISSUE`, host reads, host writes and reset
(R46 to R49, R300), and how a command word comes to be issued. -/

namespace Sys2Proof.Machine

/-- The locations below `n` of two memories hold the same. -/
def Memory.sameUpTo {α : Type} [DecidableEq α] (n : Nat) (m m' : Memory α) : Bool :=
  decide (m = m') || (List.range n).all fun a => decide (Memory.read m a = Memory.read m' a)

/-- The generation of a memory after a command, given its valid flag before and after and whether its contents in use
are the same: a new one when it is valid and was not, or when they differ (log 17). -/
def generation (was now same : Bool) (n : Nat) : Nat := if now && !(was && same) then n + 1 else n

/-- The generations after a command took `s` to `t`. No command writes IBUF (R33). -/
def nextGens (s t : State) : Generations :=
  { ibuf := s.gens.ibuf
    pal := generation s.status.palValid t.status.palValid
      (decide (s.palLen = t.palLen) && Memory.sameUpTo t.palLen.toNat s.pal t.pal) s.gens.pal
    ogrid := generation s.status.ogridValid t.status.ogridValid
      (decide (s.ogW = t.ogW ∧ s.ogH = t.ogH) && Memory.sameUpTo (t.ogW * t.ogH) s.ogrid t.ogrid) s.gens.ogrid
    tgrid := generation s.status.tgridValid t.status.tgridValid
      (decide (s.tgW = t.tgW ∧ s.tgH = t.tgH) && Memory.sameUpTo (t.tgW * t.tgH) s.tgrid t.tgrid) s.gens.tgrid
    rgrid := generation s.status.rgridValid t.status.rgridValid
      (decide (s.rgW = t.rgW ∧ s.rgH = t.rgH) && Memory.sameUpTo (t.rgW * t.rgH) s.rgrid t.rgrid) s.gens.rgrid
    obuf := generation s.status.obufValid t.status.obufValid
      (decide (s.obufLen = t.obufLen) && Memory.sameUpTo t.obufLen s.obuf t.obuf) s.gens.obuf }

/-- A command took `s` to `t`: the model renews the generation of each memory whose contents in use became others, and
changes nothing else (R71; log 17). -/
def renew (s t : State) : State := { t with gens := nextGens s t }

/-- A `LOADBUF` writes IBUF and makes it a new generation (log 17). -/
def renewIbuf (s : State) : State := { s with gens := { s.gens with ibuf := s.gens.ibuf + 1 } }

/-- `LOADBUF(bytes)` (R46): IBUF and `IBUF_LEN` take the file, `IBUF_VALID` becomes 1 and every flag of the chain
0; `ERR`, `ERR_INFO`, `ERR_SEEN` are unchanged. -/
def loadFile (bytes : List Byte) (s : State) : State :=
  { s with
    ibuf := Memory.writeAll s.ibuf 0 bytes
    ibufLen := bytes.length
    status := { clearMeta s.status with ibufValid := true } }

/-- `LOADBUF` with its preconditions (R46, U3, U11; log 7, log 8). -/
def loadbuf (bytes : List Byte) (s : State) : Result :=
  if s.status.busy then .refused .loadWhileBusy
  else if !fits s.cfg.ibufCap bytes.length then .refused .fileTooLong
  else .next (renewIbuf (loadFile bytes s))

/-- `ISSUE(word)` (R47, R98): the word is executed, or ends as an illegal command. A write to `CMD` while `BUSY` is 1
is ignored (R43; log 7). -/
def issueWord (w : Word) (s : State) : Result :=
  if s.status.busy then .next s
  else
    match decode w with
    | .ok i => andThen (exec i s) fun t => .next (renew s t)
    | .error _ => .next (illegalCommand w s)

/-- A host write to a register: `CMD` issues a command; nothing else can be written (R21, R49; log 16). -/
def writeRegister (n : BitVec 5) (v : Word) (s : State) : Result :=
  if n = 0 then issueWord v s else .next s

/-- Whether the register's valid flag is 1, so that it holds a value (R21, R40). `CMD`, `STATUS`, `ERR`, `ERR_INFO`
and the reserved numbers have none. -/
def registerValid (n : Nat) (st : Status) : Bool :=
  if n < 4 then true
  else if n = 4 then st.ibufValid
  else if n ≤ 13 then st.metaValid
  else if n = 14 then st.palValid
  else if n ≤ 16 then st.ogridValid
  else if n ≤ 18 then st.tgridValid
  else if n ≤ 20 then st.rgridValid
  else if n = 21 then st.obufValid
  else true

/-- The content of a register as the host reads it (R21): `CMD` reads 0 (R28), the numbers 22 to 31 read 0. -/
def registerValue (n : Nat) (s : State) : Nat :=
  match n with
  | 1 => (statusWord s.status).toNat
  | 2 => (errWord s.err).toNat
  | 3 => s.errInfo.toNat
  | 4 => s.ibufLen
  | 5 => s.imeta.filesize.toNat
  | 6 => s.imeta.pixoff.toNat
  | 7 => s.imeta.hdrsize.toNat
  | 8 => s.imeta.width.toNat
  | 9 => s.imeta.height.toNat
  | 10 => (bppWord s.imeta).toNat
  | 11 => s.imeta.compression.toNat
  | 12 => s.imeta.palcount.toNat
  | 13 => (metaFlagsWord s.imeta).toNat
  | 14 => s.palLen.toNat
  | 15 => s.ogW
  | 16 => s.ogH
  | 17 => s.tgW
  | 18 => s.tgH
  | 19 => s.rgW
  | 20 => s.rgH
  | 21 => s.obufLen
  | _ => 0

/-- The register is `DIMW` wide and not 32 bits (R21). -/
def registerIsDim (n : Nat) : Bool := n == 4 || (15 ≤ n && n ≤ 21)

/-- The free value a host read of an unspecified register returns (R40, U1; log 5). -/
def freeRegister (n k : Nat) : Nat :=
  if registerIsDim n then Config.freeNumber k else (Config.freeWord k).toNat

/-- A host read answers a value that is specified; the read has no other effect (R48). -/
def answer (d : HostData) (s : State) : State := { s with hostData := some d }

/-- A host read answers an unspecified value, which may differ at the next read (R40, R311; log 5). -/
def answerFree (free : Nat → HostData) (s : State) : State :=
  { s with hostData := some (free s.freeCount), freeCount := s.freeCount + 1 }

/-- A host read of a location (R40, R48). Behind a valid flag of 0 or while `BUSY` is 1 it is unspecified. Behind a flag
of 1 it is what is stored there, or, beyond the range in use, the memory's `rest`, a free value of its generation, and so
the same at every read until the memory's contents in use become others (R71; log 17). -/
def readLocation {α : Type} (valid inUse : Bool) (m : Memory α) (a : Nat) (wrap : α → HostData)
    (rest : α) (free : Nat → α) (s : State) : State :=
  if valid && !s.status.busy then
    answer (wrap ((if inUse then Memory.read m a else none).getD rest)) s
  else answerFree (fun k => wrap (free k)) s

/-- A host read of a register (R48, U1): `STATUS` is always readable, `ERR` and `ERR_INFO` when `BUSY` is 0, the
others when their valid flag is 1 too. -/
def readRegister (n : BitVec 5) (s : State) : State :=
  if n = 1 ∨ (s.status.busy = false ∧ registerValid n.toNat s.status = true) then
    answer (.number (registerValue n.toNat s)) s
  else answerFree (fun k => .number (freeRegister n.toNat k)) s

/-- A host read of byte `a` of IBUF (R48). -/
def readIbuf (a : Nat) (s : State) : State :=
  readLocation s.status.ibufValid (decide (a < s.ibufLen)) s.ibuf a .byte (Config.restIbuf s.gens.ibuf a) Config.freeByte s

/-- A host read of entry `i` of PAL (R48). -/
def readPal (i : Nat) (s : State) : State :=
  readLocation s.status.palValid (decide (i < s.palLen.toNat)) s.pal i .pixel (Config.restPal s.gens.pal i) Config.freePixel s

/-- A host read of byte `a` of OBUF (R48). -/
def readObuf (a : Nat) (s : State) : State :=
  readLocation s.status.obufValid (decide (a < s.obufLen)) s.obuf a .byte (Config.restObuf s.gens.obuf a) Config.freeByte s

/-- A host read of pixel (x, y) of the grid `g` of `w` by `h` pixels in its generation `n` under a valid flag (R36, R48, R60). -/
def readPixelOf (g : GridName) (valid : Bool) (m : Memory RGB) (w h n x y : Nat) (s : State) : State :=
  readLocation valid (decide (x < w) && decide (y < h)) m (y * w + x) .pixel (Config.restPixel n g x y) Config.freePixel s

/-- A host read of pixel (x, y) of a grid memory (R48). -/
def readPixel (g : GridName) (x y : Nat) (s : State) : State :=
  match g with
  | .original => readPixelOf g s.status.ogridValid s.ogrid s.ogW s.ogH s.gens.ogrid x y s
  | .transformed => readPixelOf g s.status.tgridValid s.tgrid s.tgW s.tgH s.gens.tgrid x y s
  | .resampled => readPixelOf g s.status.rgridValid s.rgrid s.rgW s.rgH s.gens.rgrid x y s

/-- Reset (R300): every piece of state goes to its reset value (R50). The host's own side, the actions it has yet
to perform and what it has read, and the model's counts are not CORE's and stay (log 18). -/
def resetCore (s : State) : State :=
  { State.resetOf s.cfg with
    pending := s.pending
    hostData := s.hostData
    freeCount := s.freeCount
    gens := s.gens }

/-- One host action, as one step (R46 to R49, R78, R300). -/
def perform (a : HostAction) (s : State) : Result :=
  match a with
  | .loadbuf bytes => loadbuf bytes s
  | .writeReg n v => writeRegister n v s
  | .readReg n => .next (readRegister n s)
  | .readIbuf a => .next (readIbuf a s)
  | .readPal i => .next (readPal i s)
  | .readPixel g x y => .next (readPixel g x y s)
  | .readObuf a => .next (readObuf a s)
  | .reset => .next (resetCore s)

/-- The host's next action is `ISSUE(w)`, and `BUSY` is 0 so that it is accepted (R47; log 1). -/
def issueNext (w : Word) (s : State) : State :=
  { s with
    pending := .issue w :: s.pending
    status := { s.status with busy := false } }

end Sys2Proof.Machine
end

