-- ==== Sys2Proof/Machine/Step.lean ====
section
/-! DEFINITION. One step of CORE. There is no program counter and no fetch (R30, R83): a step is the host's next
action (R78). -/

namespace Sys2Proof.Machine

/-- One step: the host's next action, or, when the host does nothing, no change (R30, R78, R301). -/
def step (s : State) : Host.Outcome State Fault Refusal :=
  match s.pending with
  | [] => .next s
  | a :: rest => perform a { s with pending := rest }

/-- The state whose next step issues the command word whose low `nbits` bits are those of `w` (R28, R47; log 1). -/
def State.withFetchWord (s : State) (nbits w : Nat) : State := issueNext (commandWord nbits w) s

end Sys2Proof.Machine
end

