-- ==== Sys2Proof/Machine/Assembler.lean ====
section
/-! DEFINITION. The assembler's text form (R120 to R124): the line of text of an instruction, and what a line of
text stands for at CORE's boundary, command words to issue or a file to load. -/

namespace Sys2Proof.Machine

/-- A byte of ASCII text as a character. -/
def asciiChar (b : Byte) : Char := Char.ofNat b.toNat

/-- A decimal integer with an optional leading `-` (R120). -/
def intText (v : Int) : List Char :=
  (if v < 0 then ['-'] else []) ++ (dec v.natAbs).map asciiChar

/-- `<chans>` of R121: `-` for no channel, else the letters of the enabled ones in the order R, G, B. -/
def chansText (er eg eb : Bool) : List Char :=
  if er || eg || eb then
    (if er then ['R'] else []) ++ (if eg then ['G'] else []) ++ (if eb then ['B'] else [])
  else ['-']

/-- The line of text of an instruction (R120 to R123). The variants of `PXDEC` are written `PXDEC` (R121, R170). -/
def instrText : Instr → List Char
  | .hparse => "HPARSE".toList
  | .palrd => "PALRD".toList
  | .pxdec => "PXDEC".toList
  | .pxdec24 => "PXDEC".toList
  | .pxdec8 => "PXDEC".toList
  | .pxdec4 => "PXDEC".toList
  | .pxdec1 => "PXDEC".toList
  | .xform bright er eg eb => "XFORM ".toList ++ intText bright ++ ", ".toList ++ chansText er eg eb
  | .resize percent => "RESIZE ".toList ++ intText percent
  | .ppmenc => "PPMENC".toList
  | .decode => "DECODE".toList
  | .xformId => "XFORM.ID".toList
  | .render bright er eg eb percent =>
    "RENDER ".toList ++ intText bright ++ ", ".toList ++ chansText er eg eb ++ ", ".toList ++ intText percent

/-- Why the assembler rejects a line (R120, R121, R124). -/
inductive AsmError where
  | unknownMnemonic
  | badOperands
  | outOfRange
deriving DecidableEq, Repr

/-- Drop the spaces at both ends. -/
def trimSpaces (l : List Char) : List Char :=
  ((l.dropWhile (· == ' ')).reverse.dropWhile (· == ' ')).reverse

/-- The parts of a line between the separators. -/
def splitAt (sep : Char) (l : List Char) : List (List Char) :=
  match l with
  | [] => [[]]
  | c :: rest =>
    match splitAt sep rest with
    | [] => [[c]]
    | part :: parts => if c == sep then [] :: part :: parts else (c :: part) :: parts

/-- The value of a decimal digit. -/
def digitValue (c : Char) : Option Nat := if '0' ≤ c ∧ c ≤ '9' then some (c.toNat - '0'.toNat) else none

/-- Read decimal digits, `acc` the value of those before. -/
def readDigits (acc : Nat) (l : List Char) : Option Nat :=
  match l with
  | [] => some acc
  | c :: rest =>
    match digitValue c with
    | some d => readDigits (acc * 10 + d) rest
    | none => none

/-- Read a decimal number of at least one digit. -/
def readNat (l : List Char) : Option Nat :=
  match l with
  | [] => none
  | c :: rest => readDigits 0 (c :: rest)

/-- Read an integer: decimal with an optional leading `-` (R120). -/
def readInt (l : List Char) : Option Int :=
  match l with
  | [] => none
  | c :: rest => if c == '-' then (readNat rest).map fun n => -(n : Int) else (readNat (c :: rest)).map fun n => (n : Int)

/-- The rest of the text after a letter where it begins with it. -/
def takeLetter (c : Char) (l : List Char) : Bool × List Char :=
  match l with
  | [] => (false, [])
  | d :: rest => if d == c then (true, rest) else (false, d :: rest)

/-- Read `<chans>`: `-`, or a non-empty text of the letters R, G, B, each at most once and in this order
(R121). -/
def readChans (l : List Char) : Option (Bool × Bool × Bool) :=
  if l == ['-'] then some (false, false, false)
  else if l.isEmpty then none
  else
    let r := takeLetter 'R' l
    let g := takeLetter 'G' r.2
    let b := takeLetter 'B' g.2
    if b.2.isEmpty then some (r.1, g.1, b.1) else none

/-- A command with its operands in range (R121: "the assembler rejects others"). -/
def inRange (i : Instr) : Except AsmError Instr := if i.wf then .ok i else .error .outOfRange

/-- Operands of `XFORM`. -/
def readXform (ops : List (List Char)) : Except AsmError Instr :=
  match ops with
  | [b, c] =>
    match readInt b, readChans c with
    | some bright, some (er, eg, eb) => inRange (.xform bright er eg eb)
    | _, _ => .error .badOperands
  | _ => .error .badOperands

/-- Operand of `RESIZE`. -/
def readResize (ops : List (List Char)) : Except AsmError Instr :=
  match ops with
  | [p] =>
    match readInt p with
    | some percent => inRange (.resize percent)
    | none => .error .badOperands
  | _ => .error .badOperands

/-- Operands of `RENDER` (R122). -/
def readRender (ops : List (List Char)) : Except AsmError Instr :=
  match ops with
  | [b, c, p] =>
    match readInt b, readChans c, readInt p with
    | some bright, some (er, eg, eb), some percent => inRange (.render bright er eg eb percent)
    | _, _, _ => .error .badOperands
  | _ => .error .badOperands

/-- A command without operands. -/
def noOperands (ops : List Char) (i : Instr) : Except AsmError Instr :=
  if ops.isEmpty then .ok i else .error .badOperands

/-- The instruction of a mnemonic and the text of its operands (R121 to R123). -/
def readInstr (mnemonic ops : List Char) : Except AsmError Instr :=
  let parts := (splitAt ',' ops).map trimSpaces
  if mnemonic == "HPARSE".toList then noOperands ops .hparse
  else if mnemonic == "PALRD".toList then noOperands ops .palrd
  else if mnemonic == "PXDEC".toList then noOperands ops .pxdec
  else if mnemonic == "XFORM".toList then readXform parts
  else if mnemonic == "RESIZE".toList then readResize parts
  else if mnemonic == "PPMENC".toList then noOperands ops .ppmenc
  else if mnemonic == "DECODE".toList then noOperands ops .decode
  else if mnemonic == "XFORM.ID".toList then noOperands ops .xformId
  else if mnemonic == "RENDER".toList then readRender parts
  else .error .unknownMnemonic

/-- The value of a hexadecimal digit. -/
def hexValue (c : Char) : Option Nat :=
  if '0' ≤ c ∧ c ≤ '9' then some (c.toNat - '0'.toNat)
  else if 'A' ≤ c ∧ c ≤ 'F' then some (c.toNat - 'A'.toNat + 10)
  else none

/-- Read bytes of two hexadecimal digits, spaces between them ignored (R124). That there may be no byte at all, so that
`LOAD` alone stands for `LOADBUF` of the empty file, is the model's choice: DESIGN CHOICE (log 21). -/
def readBytes (l : List Char) : Option (List Byte) :=
  match l with
  | [] => some []
  | ' ' :: rest => readBytes rest
  | [_] => none
  | c :: d :: rest =>
    match hexValue c, hexValue d, readBytes rest with
    | some hi, some lo, some bytes => some (BitVec.ofNat 8 (16 * hi + lo) :: bytes)
    | _, _, _ => none

/-- What a line of text stands for (R120 to R124): nothing for an empty line, `LOADBUF` for the directive `LOAD`,
otherwise the command words of its instruction, issued in order. `;` starts a comment. -/
def assembleLine (line : List Char) : Except AsmError (List HostAction) :=
  let text := trimSpaces (line.takeWhile (· != ';'))
  let mnemonic := text.takeWhile (· != ' ')
  let ops := trimSpaces (text.dropWhile (· != ' '))
  if text.isEmpty then .ok []
  else if mnemonic == "LOAD".toList then
    match readBytes ops with
    | some bytes => .ok [.loadbuf bytes]
    | none => .error .badOperands
  else
    match readInstr mnemonic ops with
    | .ok i => .ok ((encode i).map HostAction.issue)
    | .error e => .error e

end Sys2Proof.Machine
end

