-- ==== Sys2Proof/Safety.lean ====
section
/-! DEFINITION. What claims about runs are stated in: the invariant of every run (`Inv`), that no valid result is
stale (`Fresh`), which states a host cannot tell apart (`SameToHost`), a number of steps (`steps`), and when a step goes on (`canStep`). -/

namespace Sys2Proof.Machine

/-- R99: each valid flag of the chain implies the flags of its inputs. -/
structure Chained (st : Status) (m : Metadata) : Prop where
  metaNeedsIbuf : st.metaValid = true → st.ibufValid = true
  palNeedsMeta : st.palValid = true → st.metaValid = true ∧ indexed m = true
  ogridNeedsMeta : st.ogridValid = true → st.metaValid = true
  ogridNeedsPal : st.ogridValid = true → indexed m = true → st.palValid = true
  tgridNeedsOgrid : st.tgridValid = true → st.ogridValid = true
  rgridNeedsTgrid : st.rgridValid = true → st.tgridValid = true
  obufNeedsRgrid : st.obufValid = true → st.rgridValid = true

/-- R22: what holds of the metadata after a successful `HPARSE`; R153: a palette has at least one entry. -/
structure MetaOk (m : Metadata) : Prop where
  depth : m.bpp.toNat ∈ [1, 4, 8, 24]
  uncompressed : m.compression = 0
  widthPos : 1 ≤ m.width.toInt
  heightPos : 1 ≤ m.height.toNat
  heightMax : m.height.toNat ≤ 2 ^ 31
  palPos : indexed m = true → 1 ≤ m.palcount.toNat

/-- A grid memory under a valid flag of 1: both dimensions at least 1, the product within the capacity (R26), and
every pixel written. -/
structure GridOk (cap : Capacity) (m : Memory RGB) (w h : Nat) : Prop where
  widthPos : 1 ≤ w
  heightPos : 1 ≤ h
  inCapacity : fits cap (w * h) = true
  written : Memory.covers m (w * h)

/-- `ERR`, `ERR_INFO` and `ERR_SEEN` (R31, R32, R260, R276): no code above 8, no stage above 6, stage and cause 0
when the code is 0, and a non-zero code only with `ERR_SEEN` at 1. -/
structure ErrOk (s : State) : Prop where
  codeMax : s.err.code.toNat ≤ 8
  stageMax : s.err.stage.toNat ≤ 6
  success : s.err.code = 0 → s.err.stage = 0 ∧ s.errInfo = 0
  seen : s.err.code ≠ 0 → s.status.errSeen = true

/-- The invariant of every run: what R11, R22, R26, R27, R31, R40, R41, R43 and R99 promise of the state between
host actions, and the canonical form of the six memories. -/
structure Inv (s : State) : Prop where
  config : configOk s.cfg = true
  idle : s.status.busy = false
  chained : Chained s.status s.imeta
  metaOk : s.status.metaValid = true → MetaOk s.imeta
  fileIn : s.status.ibufValid = true → fits s.cfg.ibufCap s.ibufLen = true ∧ Memory.covers s.ibuf s.ibufLen
  palLen : s.status.palValid = true → s.palLen = s.imeta.palcount
  palIn : s.status.palValid = true →
    fits s.cfg.palCap s.palLen.toNat = true ∧ Memory.covers s.pal s.palLen.toNat
  ogridDims : s.status.ogridValid = true → s.ogW = widthOf s.imeta ∧ s.ogH = heightOf s.imeta
  ogridIn : s.status.ogridValid = true → GridOk s.cfg.gridCap s.ogrid s.ogW s.ogH
  tgridDims : s.status.tgridValid = true → s.tgW = s.ogW ∧ s.tgH = s.ogH
  tgridIn : s.status.tgridValid = true → GridOk s.cfg.gridCap s.tgrid s.tgW s.tgH
  rgridIn : s.status.rgridValid = true → GridOk s.cfg.gridCap s.rgrid s.rgW s.rgH
  obufIn : s.status.obufValid = true →
    s.obufLen = ppmLength s.rgW s.rgH ∧ fits s.cfg.obufCap s.obufLen = true ∧ Memory.covers s.obuf s.obufLen
  canonicalIbuf : Memory.wf s.ibuf
  canonicalPal : Memory.wf s.pal
  canonicalOgrid : Memory.wf s.ogrid
  canonicalTgrid : Memory.wf s.tgrid
  canonicalRgrid : Memory.wf s.rgrid
  canonicalObuf : Memory.wf s.obuf
  errOk : ErrOk s

/-- R41: "whenever a flag is 1, the state it guards was computed from the present content of everything upstream
whose flag is 1, and a derived result can never be stale". The operands of `XFORM` and `RESIZE` are not retained
(R94): some operands a command word carries gave the result. -/
structure Fresh (s : State) : Prop where
  metaOf : s.status.metaValid = true → ∃ buf, fileOf s = .ok buf ∧ parseHeader buf = .ok s.imeta
  palOf : s.status.palValid = true →
    ∃ buf pal, fileOf s = .ok buf ∧ paletteOf s = .ok pal ∧ readPalette s.cfg.palCap s.imeta buf = .ok pal
  ogridOf : s.status.ogridValid = true →
    ∃ buf d pal g, fileOf s = .ok buf ∧ depthOf s.imeta.bpp = some d ∧ paletteFor d s = .ok pal ∧
      Sys2Proof.Machine.ogridOf s = .ok g ∧ decodePixels s.cfg.gridCap d s.imeta pal buf = .ok g
  tgridOf : s.status.tgridValid = true →
    ∃ g bright er eg eb, Sys2Proof.Machine.ogridOf s = .ok g ∧ fitsField bright = true ∧
      Sys2Proof.Machine.tgridOf s = .ok (transform s.cfg.numerics bright er eg eb g)
  rgridOf : s.status.rgridValid = true →
    ∃ g r percent, Sys2Proof.Machine.tgridOf s = .ok g ∧ fitsField percent = true ∧
      Sys2Proof.Machine.rgridOf s = .ok r ∧ resize s.cfg.gridCap percent g = .ok r
  obufOf : s.status.obufValid = true →
    ∃ r, Sys2Proof.Machine.rgridOf s = .ok r ∧ imageOf s = .ok (ppm r)

/-- The locations below `n` of two memories are the same. -/
def Memory.sameBelow {α : Type} (n : Nat) (m m' : Memory α) : Prop :=
  ∀ a < n, Memory.read m a = Memory.read m' a

/-- Two states the host cannot tell apart (R40, U1): they agree on everything that is always specified and on what
each valid flag of 1 guards. -/
structure SameToHost (s t : State) : Prop where
  cfg : s.cfg = t.cfg
  status : s.status = t.status
  err : s.err = t.err
  errInfo : s.errInfo = t.errInfo
  pending : s.pending = t.pending
  hostData : s.hostData = t.hostData
  freeCount : s.freeCount = t.freeCount
  gens : s.gens = t.gens
  imeta : s.status.metaValid = true → s.imeta = t.imeta
  ibufLen : s.status.ibufValid = true → s.ibufLen = t.ibufLen
  ibuf : s.status.ibufValid = true → Memory.sameBelow s.ibufLen s.ibuf t.ibuf
  palLen : s.status.palValid = true → s.palLen = t.palLen
  pal : s.status.palValid = true → Memory.sameBelow s.palLen.toNat s.pal t.pal
  ogDims : s.status.ogridValid = true → s.ogW = t.ogW ∧ s.ogH = t.ogH
  ogrid : s.status.ogridValid = true → Memory.sameBelow (s.ogW * s.ogH) s.ogrid t.ogrid
  tgDims : s.status.tgridValid = true → s.tgW = t.tgW ∧ s.tgH = t.tgH
  tgrid : s.status.tgridValid = true → Memory.sameBelow (s.tgW * s.tgH) s.tgrid t.tgrid
  rgDims : s.status.rgridValid = true → s.rgW = t.rgW ∧ s.rgH = t.rgH
  rgrid : s.status.rgridValid = true → Memory.sameBelow (s.rgW * s.rgH) s.rgrid t.rgrid
  obufLen : s.status.obufValid = true → s.obufLen = t.obufLen
  obuf : s.status.obufValid = true → Memory.sameBelow s.obufLen s.obuf t.obuf

/-- Two outcomes a host cannot tell apart: the same stop, or next states it cannot tell apart. -/
inductive SameOutcome : Result → Result → Prop where
  | next {s t : State} : SameToHost s t → SameOutcome (.next s) (.next t)
  | fault (f : Fault) : SameOutcome (.fault f) (.fault f)
  | refused (f : Refusal) : SameOutcome (.refused f) (.refused f)

/-- `k` steps, stopping at the first fault or refusal (R78). It is the host's `Core.run` of `Sys2Proof.core`
(`core_run_eq_steps`). -/
def steps (k : Nat) (s : State) : Result :=
  match k with
  | 0 => .next s
  | k + 1 => andThen (step s) (steps k)

/-- The host's next action, if any, is one CORE has a move for: no `LOADBUF` of a file longer than `IBUF_CAP`
(R46, U11). -/
def canStep (s : State) : Bool :=
  match s.pending with
  | .loadbuf bytes :: _ => fits s.cfg.ibufCap bytes.length
  | _ => true

end Sys2Proof.Machine
end

