-- ==== Sys2Proof/Certificates/Slice0/Obligations.lean ====
section
/-! DEFINITION. The statements about the model, for the provers. Numbers in the statements are those of the spec's
rules; the helpers below write out, apart from the model's own functions, what the rules say of a file's layout,
of the register table and of how a command ends. -/

namespace Sys2Proof.Machine

/-- `s` after a command that succeeded and left the flags `st` (R98: `complete(0, 0, 0)`). -/
def endsWell (st : Status) (s : State) : State :=
  { s with err := ⟨0, 0⟩, errInfo := 0, status := { st with busy := false } }

/-- `s` after a command that ended in an error and left the flags `st` (R272). -/
def endsInError (code : BitVec 8) (stage : BitVec 4) (info : Nat) (st : Status) (s : State) : State :=
  { s with
    err := ⟨code, stage⟩
    errInfo := BitVec.ofNat 32 info
    status := { st with errSeen := true, busy := false } }

/-- `padded_row_size` of a row of `w` pixels at `bpp` bits a pixel (R167). -/
def storedRow (bpp w : Nat) : Nat :=
  4 * (((if bpp = 24 then 3 * w else if bpp = 8 then w else if bpp = 4 then (w + 1) / 2 else (w + 7) / 8) + 3) / 4)

/-- The palette index of column `x` of the row that begins at `b` (R104, R105, R106), as arithmetic on bytes. -/
def storedIndex (bpp : Nat) (buf : List Byte) (b x : Nat) : Nat :=
  if bpp = 8 then (byteAt buf (b + x)).toNat
  else if bpp = 4 then
    (if x % 2 = 0 then (byteAt buf (b + x / 2)).toNat / 16 else (byteAt buf (b + x / 2)).toNat % 16)
  else (byteAt buf (b + x / 8)).toNat / 2 ^ (7 - x % 8) % 2

/-- The file row that grid row `y` of `h` comes from (R178). -/
def storedRowOf (topdown : Bool) (h y : Nat) : Nat := if topdown then y else h - 1 - y

/-- The file offset of the row that grid row `y` comes from (R168, R178). -/
def storedAt (m : Metadata) (y : Nat) : Nat :=
  m.pixoff.toNat + storedRowOf m.topdown (heightOf m) y * storedRow m.bpp.toNat (widthOf m)

/-- The extent test of `PXDEC` passes (R169). -/
def extentFits (m : Metadata) (buf : List Byte) : Prop :=
  m.pixoff.toNat + heightOf m * storedRow m.bpp.toNat (widthOf m) ≤ buf.length

/-- The five rows of the opcode table that share the word of `PXDEC` (R170). -/
def pxdecRows : List Instr := [.pxdec, .pxdec24, .pxdec8, .pxdec4, .pxdec1]

/-- The input flags of R99 in the order of their bit numbers in `STATUS`, each with its value. -/
def neededFlags (i : Instr) (s : State) : List (Nat × Bool) :=
  match i with
  | .hparse => [(1, s.status.ibufValid)]
  | .decode => [(1, s.status.ibufValid)]
  | .palrd => [(1, s.status.ibufValid), (2, s.status.metaValid)]
  | .pxdec => [(1, s.status.ibufValid), (2, s.status.metaValid), (3, decide (8 < s.imeta.bpp.toNat) || s.status.palValid)]
  | .pxdec24 => [(1, s.status.ibufValid), (2, s.status.metaValid), (3, decide (8 < s.imeta.bpp.toNat) || s.status.palValid)]
  | .pxdec8 => [(1, s.status.ibufValid), (2, s.status.metaValid), (3, decide (8 < s.imeta.bpp.toNat) || s.status.palValid)]
  | .pxdec4 => [(1, s.status.ibufValid), (2, s.status.metaValid), (3, decide (8 < s.imeta.bpp.toNat) || s.status.palValid)]
  | .pxdec1 => [(1, s.status.ibufValid), (2, s.status.metaValid), (3, decide (8 < s.imeta.bpp.toNat) || s.status.palValid)]
  | .xform _ _ _ _ => [(4, s.status.ogridValid)]
  | .xformId => [(4, s.status.ogridValid)]
  | .resize _ => [(5, s.status.tgridValid)]
  | .ppmenc => [(6, s.status.rgridValid)]
  | .render _ _ _ _ _ => []

/-- The register table of R21: number, whether its valid flag is 1, content (R23, R28, R29, R31 for 0, 1, 2, 13). -/
def registerTable (s : State) : List (Nat × Bool × Nat) :=
  [(0, true, 0),
   (1, true, s.status.busy.toNat + 2 * s.status.ibufValid.toNat + 4 * s.status.metaValid.toNat +
     8 * s.status.palValid.toNat + 16 * s.status.ogridValid.toNat + 32 * s.status.tgridValid.toNat +
     64 * s.status.rgridValid.toNat + 128 * s.status.obufValid.toNat + 256 * s.status.errSeen.toNat),
   (2, true, s.err.code.toNat + 256 * s.err.stage.toNat),
   (3, true, s.errInfo.toNat),
   (4, s.status.ibufValid, s.ibufLen),
   (5, s.status.metaValid, s.imeta.filesize.toNat),
   (6, s.status.metaValid, s.imeta.pixoff.toNat),
   (7, s.status.metaValid, s.imeta.hdrsize.toNat),
   (8, s.status.metaValid, s.imeta.width.toNat),
   (9, s.status.metaValid, s.imeta.height.toNat),
   (10, s.status.metaValid, s.imeta.bpp.toNat),
   (11, s.status.metaValid, s.imeta.compression.toNat),
   (12, s.status.metaValid, s.imeta.palcount.toNat),
   (13, s.status.metaValid, s.imeta.topdown.toNat),
   (14, s.status.palValid, s.palLen.toNat),
   (15, s.status.ogridValid, s.ogW),
   (16, s.status.ogridValid, s.ogH),
   (17, s.status.tgridValid, s.tgW),
   (18, s.status.tgridValid, s.tgH),
   (19, s.status.rgridValid, s.rgW),
   (20, s.status.rgridValid, s.rgH),
   (21, s.status.obufValid, s.obufLen)] ++
  (List.range 10).map fun k => (22 + k, true, 0)

/-- The action is a host read (R48). -/
def isHostRead (a : HostAction) : Prop :=
  (∃ n, a = .readReg n) ∨ (∃ k, a = .readIbuf k) ∨ (∃ k, a = .readPal k) ∨ (∃ g x y, a = .readPixel g x y) ∨
    (∃ k, a = .readObuf k)

/-- The action is a host read of state whose valid flag is 1, or that has none (R21, R40). -/
def isValidRead (a : HostAction) (s : State) : Bool :=
  match a with
  | .readReg n => (registerTable s).any fun q => q.1 == n.toNat && q.2.1
  | .readIbuf _ => s.status.ibufValid
  | .readPal _ => s.status.palValid
  | .readPixel .original _ _ => s.status.ogridValid
  | .readPixel .transformed _ _ => s.status.tgridValid
  | .readPixel .resampled _ _ => s.status.rgridValid
  | .readObuf _ => s.status.obufValid
  | .loadbuf _ => false
  | .writeReg _ _ => false
  | .reset => false

/-- The input a rendering instruction begins at is valid (R99, R122). -/
def ownInput (i : Instr) (s : State) : Bool :=
  match i with
  | .xform _ _ _ _ => s.status.ogridValid
  | .xformId => s.status.ogridValid
  | .render _ _ _ _ _ => s.status.ogridValid
  | .resize _ => s.status.tgridValid
  | .ppmenc => s.status.rgridValid
  | .hparse => false
  | .palrd => false
  | .pxdec => false
  | .pxdec24 => false
  | .pxdec8 => false
  | .pxdec4 => false
  | .pxdec1 => false
  | .decode => false

/-- The combinations of `ERR.CODE`, `ERR.STAGE` and `ERR_INFO` a command word `w` can end with (R31, R260). -/
def ErrorReport (w : Word) (code stage info : Nat) : Prop :=
  (code = 0 ∧ stage = 0 ∧ info = 0) ∨
  (code = 1 ∧ stage = 1 ∧ info ∈ [1, 2, 3]) ∨
  (code = 2 ∧ stage = 1 ∧ info ≠ 0) ∨
  (code = 3 ∧ stage = 1 ∧ info < 2 ^ 16 ∧ info ∉ [1, 4, 8, 24]) ∨
  (code = 4 ∧ stage = 2 ∧ info = 1) ∨ (code = 4 ∧ stage = 3 ∧ info = 2) ∨
  (code = 5 ∧ stage = 3 ∧ info < 256) ∨
  (code = 6 ∧ stage = 2 ∧ info = 1) ∨ (code = 6 ∧ stage = 3 ∧ info = 2) ∨ (code = 6 ∧ stage = 5 ∧ info = 3) ∨
  (code = 6 ∧ stage = 6 ∧ info = 4) ∨
  (code = 7 ∧ stage = 0 ∧ 1 ≤ info ∧ info ≤ 6) ∨
  (code = 8 ∧ stage = 0 ∧ info = w.toNat)

/-- The rendering instructions: those whose inputs begin at OGRID (R33, R122). -/
def isRendering (i : Instr) : Bool :=
  match i with
  | .hparse => false
  | .palrd => false
  | .pxdec => false
  | .pxdec24 => false
  | .pxdec8 => false
  | .pxdec4 => false
  | .pxdec1 => false
  | .decode => false
  | .xform _ _ _ _ => true
  | .xformId => true
  | .resize _ => true
  | .ppmenc => true
  | .render _ _ _ _ _ => true

end Sys2Proof.Machine

open Sys2Proof Sys2Proof.Machine

/-! ### Command words -/

/-- R90 to R95, R100, R121 to R123, R170: decoding the words of any instruction whose operands fit their fields gives
back the commands it stands for, every operand at every value. -/
def Obligations.DecodeOfEncodeIsTheInstruction : Prop :=
  ∀ i : Instr, i.wf = true → (encode i).map decode = i.expand.map Except.ok

/-- R90 to R95, R100: a legal word is the one word of the command it decodes to. -/
def Obligations.EncodeOfDecodeIsTheWord : Prop :=
  ∀ (w : Word) (i : Instr), decode w = .ok i → i.wf = true ∧ i.expand = [i] ∧ encode i = [w]

/-- Words of the table of R121 and of the examples of R100 decode to their commands (V0). -/
def Obligations.WordsOfTheEncodingDecode : Prop :=
  decode 0x01000000#32 = .ok .hparse ∧ decode 0x02000000#32 = .ok .palrd ∧ decode 0x03000000#32 = .ok .pxdec ∧
  decode 0x04030032#32 = .ok (.xform 50 false true true) ∧
  decode 0x0407FFF6#32 = .ok (.xform (-10) true true true) ∧
  decode 0x0500FFFB#32 = .ok (.resize (-5)) ∧ decode 0x050000C8#32 = .ok (.resize 200) ∧
  decode 0x06000000#32 = .ok .ppmenc ∧ decode 0x07000000#32 = .ok .decode

/-- R96, R270: which words are illegal, and what an illegal word does; every other word decodes. The step takes the word
from the host's queue and leaves the memories' generations as they are, both the model's own fields (log 1, log 17). -/
def Obligations.IllegalWordsEndAtOnce : Prop :=
  ∀ w : Word,
    let opc := w.toNat / 2 ^ 24
    let illegal : Prop :=
      opc = 0 ∨ 8 ≤ opc ∨ (opc ∈ [1, 2, 3, 6, 7] ∧ w.toNat % 2 ^ 24 ≠ 0) ∨
      (opc = 4 ∧ w.toNat / 2 ^ 19 % 2 ^ 5 ≠ 0) ∨ (opc = 5 ∧ w.toNat / 2 ^ 16 % 2 ^ 8 ≠ 0)
    (illegal → ∀ (s : State) (rest : List HostAction), s.pending = .issue w :: rest → s.status.busy = false →
      step s = .next { s with
        pending := rest, err := ⟨8, 0⟩, errInfo := w, status := { s.status with errSeen := true } }) ∧
    (¬illegal → ∃ i, decode w = .ok i)

/-- Assembling the line of text of an instruction gives the host actions that issue its words: R121 for the
seven commands and the pseudo-instructions of R122 and R123; the four variants of `PXDEC` have no line of their own in
R121, and that they are written `PXDEC` is the model's choice (log 21). -/
def Obligations.AssemblerReadsWhatIsWritten : Prop :=
  ∀ i : Instr, i.wf = true → assembleLine (instrText i) = .ok ((encode i).map HostAction.issue)

/-! ### Steps and the host -/

/-- R30, R47, R78: a step is the host's next action; an issued word that decodes runs its command; a write to `CMD`
while `BUSY` is 1 is ignored (R43); with nothing to come a step changes nothing. Around the meaning a step takes the
action from the host's queue and renews the generations of the memories whose contents in use the command made others,
both the model's own fields (log 1, log 17). -/
def Obligations.StepRunsTheDecodedCommand : Prop :=
  (∀ (s : State) (w : Word) (i : Instr) (rest : List HostAction),
    s.pending = .issue w :: rest → s.status.busy = false → decode w = .ok i →
      step s = andThen (exec i { s with pending := rest }) fun t => .next (renew { s with pending := rest } t)) ∧
  (∀ (s : State) (nbits w : Nat) (i : Instr), decode (commandWord nbits w) = .ok i →
    let idle : State := { s with status := { s.status with busy := false } }
    step (s.withFetchWord nbits w) = andThen (exec i idle) fun t => .next (renew idle t)) ∧
  (∀ (s : State) (w : Word) (rest : List HostAction), s.pending = .issue w :: rest → s.status.busy = true →
    step s = .next { s with pending := rest }) ∧
  (∀ s : State, s.pending = [] → step s = .next s)

/-- R121, R122, R123, R170: issuing the words of an instruction, one host action each, leaves the state its meaning
gives, for the variants of `PXDEC` and the pseudo-instructions too (log 10, log 11). The memories' generations, the
model's own fields, which no meaning reads or writes (log 17), are set aside. -/
def Obligations.IssuingTheWordsRunsTheInstruction : Prop :=
  ∀ (i : Instr) (s : State), i.wf = true → s.pending = [] → s.status.busy = false →
    andThen (steps (encode i).length { s with pending := (encode i).map HostAction.issue })
      (fun t => .next { t with gens := s.gens }) = exec i s

/-- R46: `LOADBUF` stores the file, sets `IBUF_VALID`, clears every other valid flag, changes nothing else but the
model's own queue and IBUF's generation (log 1, log 17). -/
def Obligations.LoadbufStoresTheFile : Prop :=
  ∀ (s : State) (bytes : List Byte) (rest : List HostAction),
    s.pending = .loadbuf bytes :: rest → s.status.busy = false → fits s.cfg.ibufCap bytes.length = true →
    ∃ t, step s = .next t ∧
      (∀ a, Memory.read t.ibuf a = if a < bytes.length then bytes[a]? else Memory.read s.ibuf a) ∧
      t = { s with
        pending := rest, ibuf := t.ibuf, ibufLen := bytes.length
        gens := { s.gens with ibuf := s.gens.ibuf + 1 }
        status := { s.status with
          ibufValid := true, metaValid := false, palValid := false, ogridValid := false, tgridValid := false
          rgridValid := false, obufValid := false } }

/-- R46, U3, U11 and the model's choice of stop (log 7, log 8): a file longer than `IBUF_CAP`, or a load while
`BUSY` is 1, is refused. -/
def Obligations.LoadbufRefusals : Prop :=
  ∀ (s : State) (bytes : List Byte) (rest : List HostAction), s.pending = .loadbuf bytes :: rest →
    (s.status.busy = true → step s = .refused .loadWhileBusy) ∧
    (s.status.busy = false → fits s.cfg.ibufCap bytes.length = false → step s = .refused .fileTooLong)

/-- R48: a host read changes nothing of CORE: only what the host has read, and the model's count of free values. -/
def Obligations.HostReadsHaveNoSideEffect : Prop :=
  ∀ (s : State) (a : HostAction) (rest : List HostAction), s.pending = a :: rest → isHostRead a →
    ∃ d n, s.freeCount ≤ n ∧ step s = .next { s with pending := rest, hostData := some d, freeCount := n }

/-- R21, R28, R29, R31: while idle, a host read of a register whose valid flag is 1, or that has none, answers what
the table says. -/
def Obligations.RegisterReadsFollowTheTable : Prop :=
  ∀ (s : State) (n : BitVec 5) (v : Nat) (rest : List HostAction), s.pending = .readReg n :: rest →
    s.status.busy = false → (n.toNat, true, v) ∈ registerTable s →
    step s = .next { s with pending := rest, hostData := some (.number v) }

/-- R34 to R39, R48, R60: while idle and with the flag at 1, a host read of a location of any of the six memories inside
the range in use answers what is stored there. -/
def Obligations.LocationReadsAnswerTheContents : Prop :=
  ∀ (s : State) (a : HostAction) (rest : List HostAction), s.pending = a :: rest → s.status.busy = false →
    (∀ k b, a = .readIbuf k → s.status.ibufValid = true → k < s.ibufLen → Memory.read s.ibuf k = some b →
      step s = .next { s with pending := rest, hostData := some (.byte b) }) ∧
    (∀ k p, a = .readPal k → s.status.palValid = true → k < s.palLen.toNat → Memory.read s.pal k = some p →
      step s = .next { s with pending := rest, hostData := some (.pixel p) }) ∧
    (∀ x y p, a = .readPixel .original x y → s.status.ogridValid = true → x < s.ogW → y < s.ogH →
      Memory.read s.ogrid (y * s.ogW + x) = some p →
      step s = .next { s with pending := rest, hostData := some (.pixel p) }) ∧
    (∀ x y p, a = .readPixel .transformed x y → s.status.tgridValid = true → x < s.tgW → y < s.tgH →
      Memory.read s.tgrid (y * s.tgW + x) = some p →
      step s = .next { s with pending := rest, hostData := some (.pixel p) }) ∧
    (∀ x y p, a = .readPixel .resampled x y → s.status.rgridValid = true → x < s.rgW → y < s.rgH →
      Memory.read s.rgrid (y * s.rgW + x) = some p →
      step s = .next { s with pending := rest, hostData := some (.pixel p) }) ∧
    (∀ k b, a = .readObuf k → s.status.obufValid = true → k < s.obufLen → Memory.read s.obuf k = some b →
      step s = .next { s with pending := rest, hostData := some (.byte b) })

/-- R71: "Reading the same location twice with no command or `LOADBUF` in between returns the same value, provided its
valid flag is 1": every register and every location, inside the range in use or not, whatever the host reads, or
writes to registers other than `CMD`, in between (log 16, log 17). -/
def Obligations.RepeatedReadsAgree : Prop :=
  ∀ (s : State) (a : HostAction) (between rest : List HostAction), s.pending = a :: (between ++ a :: rest) →
    s.status.busy = false → isValidRead a s = true →
    (∀ b ∈ between, isHostRead b ∨ ∃ n v, b = .writeReg n v ∧ n ≠ 0) →
    ∃ s1 s2, step s = .next s1 ∧ steps (between.length + 1) s1 = .next s2 ∧
      s1.hostData.isSome = true ∧ s2.hostData = s1.hostData ∧ s2.pending = rest

/-- R21, R49; for the read-only registers the model's reading (log 16): a host write to any register but `CMD`
changes nothing. -/
def Obligations.HostWritesNothingButCmd : Prop :=
  ∀ (s : State) (n : BitVec 5) (v : Word) (rest : List HostAction), s.pending = .writeReg n v :: rest → n ≠ 0 →
    step s = .next { s with pending := rest }

/-- R300, R50: reset leaves `STATUS`, `ERR` and `ERR_INFO` at 0. -/
def Obligations.ResetClearsStatus : Prop :=
  ∀ (s : State) (rest : List HostAction), s.pending = .reset :: rest →
    ∃ t, step s = .next t ∧ statusWord t.status = 0 ∧ errWord t.err = 0 ∧ t.errInfo = 0 ∧ t.cfg = s.cfg ∧
      t.pending = rest

/-! ### The frame -/

/-- R269: a command whose input flag is 0 ends in `InputNotValid` with the lowest missing flag's bit number, and
changes nothing but `ERR`, `ERR_INFO` and `ERR_SEEN`. That the four rows that share the word of `PXDEC` need its flags at
every depth is the model's reading (log 10; R170). -/
def Obligations.MissingInputChangesNothing : Prop :=
  ∀ (i : Instr) (s : State) (bit : Nat) (before after : List (Nat × Bool)),
    neededFlags i s = before ++ (bit, false) :: after → (∀ q ∈ before, q.2 = true) → s.status.busy = false →
    exec i s = .next { s with
      err := ⟨7, 0⟩, errInfo := BitVec.ofNat 32 bit, status := { s.status with errSeen := true } }

/-- R31, R32, R260: every command word ends with one of the listed codes, stages and causes. -/
def Obligations.ErrorReportsFollowTheTable : Prop :=
  ∀ (s t : State) (w : Word) (rest : List HostAction), s.pending = .issue w :: rest → s.status.busy = false →
    step s = .next t → ErrorReport w t.err.code.toNat t.err.stage.toNat t.errInfo.toNat

/-- R276: every command that ends with a non-zero code sets `ERR_SEEN`, as a meaning and as an issued word, and no
step but a reset clears it. -/
def Obligations.ErrSeenIsSticky : Prop :=
  (∀ (i : Instr) (s t : State), i.wf = true → exec i s = .next t → t.err.code ≠ 0 → t.status.errSeen = true) ∧
  (∀ (s t : State) (w : Word) (rest : List HostAction), s.pending = .issue w :: rest → s.status.busy = false →
    step s = .next t → t.err.code ≠ 0 → t.status.errSeen = true) ∧
  (∀ s t : State, step s = .next t → s.status.errSeen = true → (∀ rest, s.pending ≠ .reset :: rest) →
    t.status.errSeen = true) ∧
  (∀ (s t : State) (rest : List HostAction), s.pending = .reset :: rest → step s = .next t → t.status.errSeen = false)

/-- R33, R36, R49: no command writes IBUF, and none that renders writes META, PAL or OGRID. -/
def Obligations.CommandsKeepTheirInputs : Prop :=
  ∀ (i : Instr) (s t : State), i.wf = true → exec i s = .next t →
    (t.ibuf = s.ibuf ∧ t.ibufLen = s.ibufLen ∧ t.status.ibufValid = s.status.ibufValid) ∧
    (t.cfg = s.cfg ∧ t.pending = s.pending ∧ t.hostData = s.hostData ∧ t.freeCount = s.freeCount ∧
      t.gens = s.gens) ∧
    (i ≠ .hparse → i ≠ .decode → t.imeta = s.imeta ∧ t.status.metaValid = s.status.metaValid) ∧
    (isRendering i = true → t.pal = s.pal ∧ t.palLen = s.palLen ∧ t.ogrid = s.ogrid ∧ t.ogW = s.ogW ∧ t.ogH = s.ogH ∧
      t.status.palValid = s.status.palValid ∧ t.status.ogridValid = s.status.ogridValid)

/-! ### HPARSE -/

/-- R61, R62: little-endian fields, two's complement. -/
def Obligations.FieldsAreLittleEndian : Prop :=
  ∀ (buf : List Byte) (a : Nat),
    memRead buf a 2 = (byteAt buf a).toNat + 256 * (byteAt buf (a + 1)).toNat ∧
    memRead buf a 4 = (byteAt buf a).toNat + 256 * (byteAt buf (a + 1)).toNat + 256 ^ 2 * (byteAt buf (a + 2)).toNat +
      256 ^ 3 * (byteAt buf (a + 3)).toNat ∧
    (memRead buf a 4 < 2 ^ 31 → sext32 (memRead buf a 4) = memRead buf a 4) ∧
    (2 ^ 31 ≤ memRead buf a 4 → sext32 (memRead buf a 4) = (memRead buf a 4 : Int) - 2 ^ 32)

/-- R23, R24, R131, R135, R139: a header that passes the five checks gives the nine `META` values, sets `META_VALID`
and clears everything after it. -/
def Obligations.HparseExtractsTheHeader : Prop :=
  ∀ (s : State) (buf : List Byte), s.status.ibufValid = true → fileOf s = .ok buf → 54 ≤ buf.length →
    byteAt buf 0 = 0x42#8 → byteAt buf 1 = 0x4D#8 → memRead buf 30 4 = 0 → memRead buf 28 2 ∈ [1, 4, 8, 24] →
    0 < sext32 (memRead buf 18 4) → sext32 (memRead buf 22 4) ≠ 0 →
    ∃ t, exec .hparse s = .next t ∧
      t.imeta.filesize.toNat = memRead buf 2 4 ∧ t.imeta.pixoff.toNat = memRead buf 10 4 ∧
      t.imeta.hdrsize.toNat = memRead buf 14 4 ∧ t.imeta.width.toInt = sext32 (memRead buf 18 4) ∧
      (t.imeta.height.toNat : Int) = |sext32 (memRead buf 22 4)| ∧
      (t.imeta.topdown = true ↔ sext32 (memRead buf 22 4) < 0) ∧
      t.imeta.bpp.toNat = memRead buf 28 2 ∧ t.imeta.compression = 0 ∧
      t.imeta.palcount.toNat =
        (if memRead buf 46 4 = 0 ∧ memRead buf 28 2 ≤ 8 then 2 ^ memRead buf 28 2 else memRead buf 46 4) ∧
      t = endsWell
        { s.status with
          metaValid := true, palValid := false, ogridValid := false, tgridValid := false, rgridValid := false
          obufValid := false }
        { s with imeta := t.imeta }

/-- R132, R133, R134, R136, R137, R138, R261, R262, R263: the five checks, in order, each with its error; nothing but
`ERR`, `ERR_INFO`, `ERR_SEEN` and the cleared flags changes. -/
def Obligations.HparseRejectsInOrder : Prop :=
  ∀ (s : State) (buf : List Byte), s.status.ibufValid = true → fileOf s = .ok buf →
    let cleared : Status :=
      { s.status with
        metaValid := false, palValid := false, ogridValid := false, tgridValid := false, rgridValid := false
        obufValid := false }
    let magic : Prop := byteAt buf 0 = 0x42#8 ∧ byteAt buf 1 = 0x4D#8
    let comp := memRead buf 30 4
    let bpp := memRead buf 28 2
    (buf.length < 54 → exec .hparse s = .next (endsInError 1 1 1 cleared s)) ∧
    (54 ≤ buf.length → ¬magic → exec .hparse s = .next (endsInError 1 1 2 cleared s)) ∧
    (54 ≤ buf.length → magic → comp ≠ 0 → exec .hparse s = .next (endsInError 2 1 comp cleared s)) ∧
    (54 ≤ buf.length → magic → comp = 0 → bpp ∉ [1, 4, 8, 24] →
      exec .hparse s = .next (endsInError 3 1 bpp cleared s)) ∧
    (54 ≤ buf.length → magic → comp = 0 → bpp ∈ [1, 4, 8, 24] →
      (sext32 (memRead buf 18 4) ≤ 0 ∨ sext32 (memRead buf 22 4) = 0) →
      exec .hparse s = .next (endsInError 1 1 3 cleared s))

/-- R130, R135, R141, U5: two files of at least 54 bytes that agree on the bytes of the magic and of the eight fields
are parsed alike, whatever else they hold. -/
def Obligations.UnreadHeaderBytesHaveNoEffect : Prop :=
  ∀ buf buf' : List Byte, 54 ≤ buf.length → 54 ≤ buf'.length →
    (∀ a, a ≤ 5 ∨ (10 ≤ a ∧ a ≤ 25) ∨ (28 ≤ a ∧ a ≤ 33) ∨ (46 ≤ a ∧ a ≤ 49) → byteAt buf a = byteAt buf' a) →
    parseHeader buf = parseHeader buf'

/-! ### PALRD -/

/-- R102, R151, R153, R154: at depth 1, 4 or 8 a colour table inside the file is stored with its channels swapped;
`PAL_LEN` is the count; `PAL_VALID` is set and everything after it cleared. -/
def Obligations.PalrdStoresTheColourTable : Prop :=
  ∀ (s : State) (buf : List Byte), s.status.ibufValid = true → s.status.metaValid = true →
    s.imeta.bpp.toNat ∈ [1, 4, 8] → fileOf s = .ok buf →
    14 + s.imeta.hdrsize.toNat + 4 * s.imeta.palcount.toNat ≤ buf.length →
    fits s.cfg.palCap s.imeta.palcount.toNat = true →
    ∃ t, exec .palrd s = .next t ∧
      (∀ i < s.imeta.palcount.toNat, Memory.read t.pal i = some
        { r := byteAt buf (14 + s.imeta.hdrsize.toNat + 4 * i + 2)
          g := byteAt buf (14 + s.imeta.hdrsize.toNat + 4 * i + 1)
          b := byteAt buf (14 + s.imeta.hdrsize.toNat + 4 * i) }) ∧
      (∀ i, s.imeta.palcount.toNat ≤ i → Memory.read t.pal i = Memory.read s.pal i) ∧
      t = endsWell
        { s.status with
          palValid := true, ogridValid := false, tgridValid := false, rgridValid := false, obufValid := false }
        { s with pal := t.pal, palLen := s.imeta.palcount }

/-- R153, R155, R264, R268, R271: the extent test, then the capacity test. -/
def Obligations.PalrdRejectsInOrder : Prop :=
  ∀ (s : State) (buf : List Byte), s.status.ibufValid = true → s.status.metaValid = true →
    s.imeta.bpp.toNat ∈ [1, 4, 8] → fileOf s = .ok buf →
    let cleared : Status :=
      { s.status with
        palValid := false, ogridValid := false, tgridValid := false, rgridValid := false, obufValid := false }
    (buf.length < 14 + s.imeta.hdrsize.toNat + 4 * s.imeta.palcount.toNat →
      exec .palrd s = .next (endsInError 4 2 1 cleared s)) ∧
    (14 + s.imeta.hdrsize.toNat + 4 * s.imeta.palcount.toNat ≤ buf.length →
      fits s.cfg.palCap s.imeta.palcount.toNat = false →
      exec .palrd s = .next (endsInError 6 2 1 cleared s))

/-- R156: at depth 24 `PALRD` succeeds and changes nothing but `ERR` and `ERR_INFO`, which become 0. -/
def Obligations.PalrdAtDepth24ChangesNothing : Prop :=
  ∀ s : State, s.status.ibufValid = true → s.status.metaValid = true → s.status.busy = false → s.imeta.bpp = 24#16 →
    exec .palrd s = .next { s with err := ⟨0, 0⟩, errInfo := 0 }

/-- R154, U6: two files that differ at most in the fourth bytes of the entries have the same palette. -/
def Obligations.FourthPaletteByteHasNoEffect : Prop :=
  ∀ (cap : Capacity) (m : Metadata) (buf buf' : List Byte), buf.length = buf'.length →
    (∀ i < m.palcount.toNat, ∀ k < 3, byteAt buf (14 + m.hdrsize.toNat + 4 * i + k) =
      byteAt buf' (14 + m.hdrsize.toNat + 4 * i + k)) →
    readPalette cap m buf = readPalette cap m buf'

/-! ### PXDEC and DECODE -/

/-- R167: `padded_row_size` is the least multiple of 4 not below the row's bytes, and the source's three figures. -/
def Obligations.RowSizesFollowTheFormula : Prop :=
  (∀ rb : Nat, paddedRowSize rb % 4 = 0 ∧ rb ≤ paddedRowSize rb ∧ paddedRowSize rb < rb + 4) ∧
  (∀ w : Nat, rowBytes .d24 w = 3 * w ∧ rowBytes .d8 w = w ∧
    (2 * rowBytes .d4 w = w ∨ 2 * rowBytes .d4 w = w + 1) ∧
    (w ≤ 8 * rowBytes .d1 w ∧ 8 * rowBytes .d1 w < w + 8)) ∧
  (rowBytes .d1 5 = 1 ∧ paddedRowSize 1 = 4) ∧ (rowBytes .d4 10 = 5 ∧ paddedRowSize 5 = 8) ∧
  (rowBytes .d24 7 = 21 ∧ paddedRowSize 21 = 24)

/-- R64, R166, R168, R171, R178: at depth 24, with the pixel data inside the file and the grid inside the capacity,
`PXDEC` fills OGRID top-down with the file's triples, and so does each row that shares its word, whichever depth it
is named after: the model's reading (log 10; R170). -/
def Obligations.PxdecDecodesTrueColour : Prop :=
  ∀ (i : Instr) (s : State) (buf : List Byte), i ∈ pxdecRows → s.status.ibufValid = true →
    s.status.metaValid = true → s.imeta.bpp.toNat = 24 → fileOf s = .ok buf → extentFits s.imeta buf →
    fits s.cfg.gridCap (widthOf s.imeta * heightOf s.imeta) = true →
    ∃ t, exec i s = .next t ∧
      (∀ y < heightOf s.imeta, ∀ x < widthOf s.imeta,
        Memory.read t.ogrid (y * widthOf s.imeta + x) = some
          { r := byteAt buf (storedAt s.imeta y + 3 * x + 2)
            g := byteAt buf (storedAt s.imeta y + 3 * x + 1)
            b := byteAt buf (storedAt s.imeta y + 3 * x) }) ∧
      (∀ a, widthOf s.imeta * heightOf s.imeta ≤ a → Memory.read t.ogrid a = Memory.read s.ogrid a) ∧
      t = endsWell
        { s.status with ogridValid := true, tgridValid := false, rgridValid := false, obufValid := false }
        { s with ogrid := t.ogrid, ogW := widthOf s.imeta, ogH := heightOf s.imeta }

/-- R65, R166, R168, R172 to R175, R178: at depth 8, 4 or 1, with every pixel's index inside the palette too, OGRID
holds the palette's entries. That each row that shares the word of `PXDEC` has its effect at every depth is the
model's reading (log 10; R170). -/
def Obligations.PxdecDecodesIndexedColour : Prop :=
  ∀ (i : Instr) (s : State) (buf : List Byte) (pal : List RGB), i ∈ pxdecRows → s.status.ibufValid = true →
    s.status.metaValid = true → s.status.palValid = true → s.imeta.bpp.toNat ∈ [8, 4, 1] → fileOf s = .ok buf →
    paletteOf s = .ok pal → extentFits s.imeta buf →
    fits s.cfg.gridCap (widthOf s.imeta * heightOf s.imeta) = true →
    (∀ y < heightOf s.imeta, ∀ x < widthOf s.imeta,
      storedIndex s.imeta.bpp.toNat buf (storedAt s.imeta y) x < pal.length) →
    ∃ t, exec i s = .next t ∧
      (∀ y < heightOf s.imeta, ∀ x < widthOf s.imeta,
        Memory.read t.ogrid (y * widthOf s.imeta + x) =
          pal[storedIndex s.imeta.bpp.toNat buf (storedAt s.imeta y) x]?) ∧
      (∀ a, widthOf s.imeta * heightOf s.imeta ≤ a → Memory.read t.ogrid a = Memory.read s.ogrid a) ∧
      t = endsWell
        { s.status with ogridValid := true, tgridValid := false, rgridValid := false, obufValid := false }
        { s with ogrid := t.ogrid, ogW := widthOf s.imeta, ogH := heightOf s.imeta }

/-- R169, R175, R176, R179: the extent test, then the capacity test, then the first bad index in file order. The
memory's content after the error of the last clause is the model's choice (log 9), and that each row that shares the
word of `PXDEC` has its effect at every depth is its reading (log 10; R166, R170). -/
def Obligations.PxdecRejectsInOrder : Prop :=
  ∀ (i : Instr) (s : State) (buf : List Byte) (pal : List RGB), i ∈ pxdecRows → s.status.ibufValid = true →
    s.status.metaValid = true → s.imeta.bpp.toNat ∈ [24, 8, 4, 1] → fileOf s = .ok buf →
    (s.imeta.bpp.toNat ≤ 8 → s.status.palValid = true ∧ paletteOf s = .ok pal) →
    let cleared : Status :=
      { s.status with ogridValid := false, tgridValid := false, rgridValid := false, obufValid := false }
    let index (r x : Nat) : Nat := storedIndex s.imeta.bpp.toNat buf
      (s.imeta.pixoff.toNat + r * storedRow s.imeta.bpp.toNat (widthOf s.imeta)) x
    (¬extentFits s.imeta buf → exec i s = .next (endsInError 4 3 2 cleared s)) ∧
    (extentFits s.imeta buf → fits s.cfg.gridCap (widthOf s.imeta * heightOf s.imeta) = false →
      exec i s = .next (endsInError 6 3 2 cleared s)) ∧
    (extentFits s.imeta buf → fits s.cfg.gridCap (widthOf s.imeta * heightOf s.imeta) = true →
      s.imeta.bpp.toNat ≤ 8 → ∀ r < heightOf s.imeta, ∀ x < widthOf s.imeta, pal.length ≤ index r x →
      (∀ r' x', x' < widthOf s.imeta → (r' < r ∨ (r' = r ∧ x' < x)) → index r' x' < pal.length) →
      exec i s = .next (endsInError 5 3 (index r x) cleared s))

/-- R177, U4: two files of one length that agree on the bits of every pixel decode alike, whatever their padding
bytes, nibbles and bits hold. -/
def Obligations.PaddingHasNoEffect : Prop :=
  ∀ (cap : Capacity) (d : Depth) (m : Metadata) (pal : List RGB) (buf buf' : List Byte),
    buf.length = buf'.length → depthOf m.bpp = some d →
    (∀ r < heightOf m, ∀ x < widthOf m,
      let b := m.pixoff.toNat + r * storedRow m.bpp.toNat (widthOf m)
      if m.bpp.toNat = 24 then ∀ k < 3, byteAt buf (b + 3 * x + k) = byteAt buf' (b + 3 * x + k)
      else storedIndex m.bpp.toNat buf b x = storedIndex m.bpp.toNat buf' b x) →
    decodePixels cap d m pal buf = decodePixels cap d m pal buf'

/-- R178, R181: decoding with the height's sign the other way gives the rows in reverse, and an error exactly where
the other is the same error. -/
def Obligations.ScanDirectionReversesRows : Prop :=
  ∀ (cap : Capacity) (d : Depth) (m : Metadata) (pal : List RGB) (buf : List Byte),
    (∀ gp, decodePixels cap d { m with topdown := false } pal buf = .ok gp →
      ∃ gn, decodePixels cap d { m with topdown := true } pal buf = .ok gn ∧ gn.w = gp.w ∧ gn.h = gp.h ∧
        ∀ y < gp.h, gridRow gn y = gridRow gp (gp.h - 1 - y)) ∧
    (∀ e, decodePixels cap d { m with topdown := false } pal buf = .error e →
      decodePixels cap d { m with topdown := true } pal buf = .error e)

/-- R186: a `DECODE` that succeeds leaves exactly the state that issuing `HPARSE`, `PALRD` and `PXDEC` one after the
other leaves (at depth 24 `PALRD` changes nothing, R156), the memories' generations, the model's own fields, set aside (log 17). -/
def Obligations.DecodeIsItsPartsIssued : Prop :=
  ∀ s t : State, s.pending = [] → s.status.busy = false → exec .decode s = .next t → t.err.code = 0 →
    andThen (steps 3
      { s with pending := [.issue 0x01000000#32, .issue 0x02000000#32, .issue 0x03000000#32] })
      (fun u => .next { u with gens := t.gens }) = .next t

/-- R186: `DECODE` stops at the first part that ends in error, with the state that part leaves. -/
def Obligations.DecodeStopsAtTheFirstError : Prop :=
  ∀ s s1 : State, exec .hparse s = .next s1 →
    (s1.err.code ≠ 0 → exec .decode s = .next s1) ∧
    (s1.err.code = 0 → 8 < s1.imeta.bpp.toNat → exec .decode s = exec .pxdec s1) ∧
    (s1.err.code = 0 → s1.imeta.bpp.toNat ≤ 8 → ∀ s2, exec .palrd s1 = .next s2 →
      (s2.err.code ≠ 0 → exec .decode s = .next s2) ∧ (s2.err.code = 0 → exec .decode s = exec .pxdec s2))

/-- R99, R186: on a file whose header, colour table (depth ≤ 8) and pixels are good, `DECODE` completes: META, PAL and
OGRID hold what the units' functions give, their flags are 1, everything after OGRID is invalid. -/
def Obligations.DecodeCompletes : Prop :=
  ∀ (s : State) (buf : List Byte) (m : Metadata) (d : Depth) (pal : List RGB) (g : Grid),
    s.status.ibufValid = true → fileOf s = .ok buf → parseHeader buf = .ok m → depthOf m.bpp = some d →
    (m.bpp.toNat ≤ 8 → readPalette s.cfg.palCap m buf = .ok pal) →
    decodePixels s.cfg.gridCap d m pal buf = .ok g →
    ∃ t, exec .decode s = .next t ∧ t.imeta = m ∧ ogridOf t = .ok g ∧
      (m.bpp.toNat ≤ 8 → paletteOf t = .ok pal) ∧
      (8 < m.bpp.toNat → t.pal = s.pal ∧ t.palLen = s.palLen) ∧
      (∀ a, t.palLen.toNat ≤ a → Memory.read t.pal a = Memory.read s.pal a) ∧
      (∀ a, g.w * g.h ≤ a → Memory.read t.ogrid a = Memory.read s.ogrid a) ∧
      t = endsWell
        { s.status with
          metaValid := true, palValid := decide (m.bpp.toNat ≤ 8), ogridValid := true, tgridValid := false
          rgridValid := false, obufValid := false }
        { s with imeta := m, pal := t.pal, palLen := t.palLen, ogrid := t.ogrid, ogW := t.ogW, ogH := t.ogH }

/-- R143: after a successful `DECODE` the dimensions are those of the header. -/
def Obligations.DecodedDimensionsAreTheHeaders : Prop :=
  ∀ (s t : State) (buf : List Byte), fileOf s = .ok buf → exec .decode s = .next t → t.err.code = 0 →
    t.imeta.width.toInt = sext32 (memRead buf 18 4) ∧ (t.ogW : Int) = sext32 (memRead buf 18 4) ∧
    (t.imeta.height.toNat : Int) = |sext32 (memRead buf 22 4)| ∧ (t.ogH : Int) = |sext32 (memRead buf 22 4)|

/-! ### XFORM -/

/-- R204, R206: with exact numerics a channel is `clamp(trunc(c * bright / 100), 0, 255)`, for every integer. R205, R211:
under binary64 a brightness not above 0 that a command word carries gives 0. -/
def Obligations.ScaleTruncatesThenClamps : Prop :=
  (∀ (c : Byte) (bright : Int),
    ((scale .exact c bright).toNat : Int) = min 255 (max 0 (((c.toNat : Int) * bright).tdiv 100))) ∧
  (∀ (c : Byte) (bright : Int), fitsField bright = true → bright ≤ 0 → scale .binary64 c bright = 0)

/-- R205: for a brightness of 0 to 100 the two numerics differ on exactly the twelve listed pairs, where binary64
gives one less. -/
def Obligations.Binary64DiffersOnTwelvePairs : Prop :=
  ∀ c bright : Nat, c < 256 → bright ≤ 100 →
    let pairs : List (Nat × Nat) :=
      [(100, 29), (200, 29), (180, 35), (100, 57), (200, 57), (50, 58), (100, 58), (200, 58), (90, 70), (170, 70),
       (180, 70), (150, 82)]
    (scale .binary64 (BitVec.ofNat 8 c) bright).toNat =
      (scale .exact (BitVec.ofNat 8 c) bright).toNat - (if (c, bright) ∈ pairs then 1 else 0)

/-- R205: over every operand a command word carries, binary64 gives the exact result or one less, and one less only
where the exact quotient is an integer. -/
def Obligations.Binary64IsExactOrOneLess : Prop :=
  ∀ (c : Byte) (bright : Int), fitsField bright = true →
    scale .binary64 c bright = scale .exact c bright ∨
    ((scale .binary64 c bright).toNat + 1 = (scale .exact c bright).toNat ∧ ((c.toNat : Int) * bright) % 100 = 0)

/-- R201, R202, R208: `XFORM` reads OGRID, writes TGRID of the same dimensions, each enabled channel scaled and each
disabled one 0; nothing else but the flags after TGRID changes. -/
def Obligations.XformMasksAndScales : Prop :=
  ∀ (bright : Int) (er eg eb : Bool) (s : State) (g : Grid), s.status.ogridValid = true → ogridOf s = .ok g →
    ∃ t, exec (.xform bright er eg eb) s = .next t ∧
      (∀ a < s.ogW * s.ogH, ∃ p, Memory.read s.ogrid a = some p ∧ Memory.read t.tgrid a = some
        { r := if er then scale s.cfg.numerics p.r bright else 0
          g := if eg then scale s.cfg.numerics p.g bright else 0
          b := if eb then scale s.cfg.numerics p.b bright else 0 }) ∧
      (∀ a, s.ogW * s.ogH ≤ a → Memory.read t.tgrid a = Memory.read s.tgrid a) ∧
      t = endsWell { s.status with tgridValid := true, rgridValid := false, obufValid := false }
        { s with tgrid := t.tgrid, tgW := s.ogW, tgH := s.ogH }

/-- R123, R209: `XFORM.ID` is `XFORM 100, RGB`, and makes TGRID equal to OGRID under either numerics. -/
def Obligations.XformIdIsTheIdentity : Prop :=
  ∀ (s : State) (g : Grid), s.status.ogridValid = true → ogridOf s = .ok g →
    exec .xformId s = exec (.xform 100 true true true) s ∧
    ∃ t, exec .xformId s = .next t ∧ tgridOf t = .ok g ∧
      (∀ a, s.ogW * s.ogH ≤ a → Memory.read t.tgrid a = Memory.read s.tgrid a) ∧
      t = endsWell { s.status with tgridValid := true, rgridValid := false, obufValid := false }
        { s with tgrid := t.tgrid, tgW := s.ogW, tgH := s.ogH }

/-- R208: two `XFORM` commands in a row do not compose: the second gives what it gives alone. -/
def Obligations.XformsDoNotCompose : Prop :=
  ∀ (b b' : Int) (er eg eb er' eg' eb' : Bool) (s t : State), Memory.wf s.tgrid → s.status.ogridValid = true →
    exec (.xform b er eg eb) s = .next t → exec (.xform b' er' eg' eb') t = exec (.xform b' er' eg' eb') s

/-- R210 (b): the function `transform` is not idempotent under composition, under either numerics; brightness 50 twice
leaves a quarter of a channel that is a multiple of 4. -/
def Obligations.TransformIsNotIdempotent : Prop :=
  ∀ num : Numerics, ∃ g : Grid, transform num 50 true true true (transform num 50 true true true g) ≠
      transform num 50 true true true g ∧
    ∀ g' : Grid, (∀ p ∈ g'.px, p.r.toNat % 4 = 0 ∧ p.g.toNat % 4 = 0 ∧ p.b.toNat % 4 = 0) →
      (transform num 50 true true true (transform num 50 true true true g')).px = g'.px.map fun p =>
        { r := BitVec.ofNat 8 (p.r.toNat / 4), g := BitVec.ofNat 8 (p.g.toNat / 4), b := BitVec.ofNat 8 (p.b.toNat / 4) }

/-! ### RESIZE -/

/-- R222: a percentage not above 0 gives a 1x1 black grid, without error. -/
def Obligations.ResizeDegenerateIsBlack : Prop :=
  ∀ (percent : Int) (s : State), percent ≤ 0 → s.status.tgridValid = true →
    ∃ t, exec (.resize percent) s = .next t ∧
      (∀ a, Memory.read t.rgrid a = if a = 0 then some ⟨0, 0, 0⟩ else Memory.read s.rgrid a) ∧
      t = endsWell { s.status with rgridValid := true, obufValid := false }
        { s with rgrid := t.rgrid, rgW := 1, rgH := 1 }

/-- R223, R224, R226, R228: for a percentage of at least 1 the new dimensions and the nearest-neighbour mapping; every
pixel of RGRID is the copy of one of TGRID; the capacity test comes first. -/
def Obligations.ResizeMapsNearestNeighbours : Prop :=
  ∀ (percent : Nat) (s : State) (g : Grid), 1 ≤ percent → s.status.tgridValid = true → tgridOf s = .ok g →
    1 ≤ s.tgW → 1 ≤ s.tgH →
    let nw := max 1 (s.tgW * percent / 100)
    let nh := max 1 (s.tgH * percent / 100)
    (fits s.cfg.gridCap (nw * nh) = true →
      ∃ t, exec (.resize percent) s = .next t ∧
        (∀ y < nh, ∀ x < nw, (Memory.read t.rgrid (y * nw + x)).isSome = true ∧
          Memory.read t.rgrid (y * nw + x) = Memory.read s.tgrid (y * s.tgH / nh * s.tgW + x * s.tgW / nw)) ∧
        (∀ a, nw * nh ≤ a → Memory.read t.rgrid a = Memory.read s.rgrid a) ∧
        t = endsWell { s.status with rgridValid := true, obufValid := false }
          { s with rgrid := t.rgrid, rgW := nw, rgH := nh }) ∧
    (fits s.cfg.gridCap (nw * nh) = false →
      exec (.resize percent) s =
        .next (endsInError 6 5 3 { s.status with rgridValid := false, obufValid := false } s))

/-- R225: the mapping never leaves the source. -/
def Obligations.ResizeStaysInBounds : Prop :=
  ∀ n percent x : Nat, 1 ≤ n → 1 ≤ percent → x < newDim n percent → sourceCoord n (newDim n percent) x < n

/-! ### PPMENC -/

/-- R116: `dec(n)` is the decimal numeral of `n`: ASCII digits, most significant first, no leading zero. -/
def Obligations.DecimalNumerals : Prop :=
  ∀ n : Nat, 1 ≤ n →
    (∀ b ∈ dec n, 0x30 ≤ b.toNat ∧ b.toNat ≤ 0x39) ∧ (dec n).head? ≠ some 0x30#8 ∧
    (dec n).foldl (fun acc b => acc * 10 + (b.toNat - 0x30)) 0 = n

/-- R118: the length of the output. -/
def Obligations.OutputLength : Prop :=
  ∀ g : Grid, 1 ≤ g.w → 1 ≤ g.h → g.px.length = g.w * g.h →
    (ppm g).length = 9 + (Nat.log 10 g.w + 1) + (Nat.log 10 g.h + 1) + 3 * g.w * g.h

/-- R66, R115, R241, R242, R243, R245: the header, then R, G, B of each pixel in row-major order, and nothing else;
the capacity test comes first. -/
def Obligations.PpmencWritesThePixmap : Prop :=
  ∀ (s : State) (g : Grid), s.status.rgridValid = true → rgridOf s = .ok g →
    let hdr : List Byte := [0x50#8, 0x36#8, 0x0A#8] ++ dec s.rgW ++ [0x20#8] ++ dec s.rgH ++
      [0x0A#8, 0x32#8, 0x35#8, 0x35#8, 0x0A#8]
    let len := hdr.length + 3 * s.rgW * s.rgH
    (fits s.cfg.obufCap len = true →
      ∃ t, exec .ppmenc s = .next t ∧
        (∀ a < hdr.length, Memory.read t.obuf a = hdr[a]?) ∧
        (∀ k < s.rgW * s.rgH, ∃ p, Memory.read s.rgrid k = some p ∧
          Memory.read t.obuf (hdr.length + 3 * k) = some p.r ∧
          Memory.read t.obuf (hdr.length + 3 * k + 1) = some p.g ∧
          Memory.read t.obuf (hdr.length + 3 * k + 2) = some p.b) ∧
        (∀ a, len ≤ a → Memory.read t.obuf a = Memory.read s.obuf a) ∧
        t = endsWell { s.status with obufValid := true } { s with obuf := t.obuf, obufLen := len }) ∧
    (fits s.cfg.obufCap len = false →
      exec .ppmenc s = .next (endsInError 6 6 4 { s.status with obufValid := false } s))

/-- R122: where the result fits, `RENDER` completes: TGRID, RGRID and OBUF hold the three units' results and their
flags are 1; nothing upstream changes. -/
def Obligations.RenderCompletes : Prop :=
  ∀ (bright percent : Int) (er eg eb : Bool) (s : State) (g r : Grid) (bytes : List Byte),
    s.status.ogridValid = true → ogridOf s = .ok g →
    resize s.cfg.gridCap percent (transform s.cfg.numerics bright er eg eb g) = .ok r →
    encodePpm s.cfg.obufCap r = .ok bytes →
    ∃ t, exec (.render bright er eg eb percent) s = .next t ∧
      tgridOf t = .ok (transform s.cfg.numerics bright er eg eb g) ∧ rgridOf t = .ok r ∧ imageOf t = .ok bytes ∧
      (∀ a, s.ogW * s.ogH ≤ a → Memory.read t.tgrid a = Memory.read s.tgrid a) ∧
      (∀ a, r.w * r.h ≤ a → Memory.read t.rgrid a = Memory.read s.rgrid a) ∧
      (∀ a, bytes.length ≤ a → Memory.read t.obuf a = Memory.read s.obuf a) ∧
      t = endsWell { s.status with tgridValid := true, rgridValid := true, obufValid := true }
        { s with
          tgrid := t.tgrid, tgW := s.ogW, tgH := s.ogH, rgrid := t.rgrid, rgW := r.w, rgH := r.h, obuf := t.obuf
          obufLen := bytes.length }

/-- R266: a rendering instruction ends only with codes 0, 6 or 7, and, with unbounded grid and output memories, with
code 0 whenever the input it begins at is valid: OGRID for `XFORM`, `XFORM.ID` and `RENDER`, TGRID for `RESIZE`, RGRID
for `PPMENC`. -/
def Obligations.RenderingEndsInCapacityOrInputErrorsOnly : Prop :=
  ∀ (i : Instr) (s t : State), i.wf = true → isRendering i = true → exec i s = .next t →
    t.err.code ∈ [0, 6, 7] ∧
    (s.cfg.gridCap = .inf → s.cfg.obufCap = .inf → ownInput i s = true → t.err.code = 0)

/-- R143, R178, R209, R227, R244: a true-colour file decoded and rendered at 100 percent, all channels enabled,
comes out as its pixels top-down with each file triple b g r as r g b. -/
def Obligations.IdentityPipelineSwapsChannels : Prop :=
  ∀ (s s1 t : State) (buf : List Byte), fileOf s = .ok buf → exec .decode s = .next s1 → s1.err.code = 0 →
    s1.imeta.bpp.toNat = 24 → exec (.render 100 true true true 100) s1 = .next t → t.err.code = 0 →
    imageOf t = .ok (ppmHeader (widthOf s1.imeta) (heightOf s1.imeta) ++
      (List.range (heightOf s1.imeta)).flatMap fun y => (List.range (widthOf s1.imeta)).flatMap fun x =>
        [byteAt buf (storedAt s1.imeta y + 3 * x + 2), byteAt buf (storedAt s1.imeta y + 3 * x + 1),
          byteAt buf (storedAt s1.imeta y + 3 * x)])

/-! ### Every run -/

/-- The invariant holds after reset, in every configuration R11 allows. The values behind the valid flags are the
model's (log 2, log 3, log 4); the invariant says nothing about them. -/
def Obligations.InvAtReset : Prop := ∀ c : Config, configOk c = true → Inv (State.resetOf c)

/-- R11, R22, R26, R27, R31, R43, R99 and the canonical form of the memories: every step keeps the invariant. -/
def Obligations.StepKeepsInv : Prop := ∀ s t : State, Inv s → step s = .next t → Inv t

/-- R267, R274, R320: from every state of the invariant a step goes on; no command ends a run. The one thing a step
is refused for is a `LOADBUF` that cannot happen (R46; log 8). -/
def Obligations.StepGoesOn : Prop := ∀ s : State, Inv s → canStep s = true → ∃ t, step s = .next t

/-- The same of a single instruction: whatever the state of a run and the operands, it answers a next state. -/
def Obligations.EveryInstructionAnswersAState : Prop :=
  ∀ (i : Instr) (s : State), i.wf = true → Inv s → ∃ t, exec i s = .next t

/-- R41: no valid result is ever stale; so after reset, and every step keeps it. -/
def Obligations.ValidResultsAreFresh : Prop :=
  (∀ c : Config, Fresh (State.resetOf c)) ∧ ∀ s t : State, Inv s → Fresh s → step s = .next t → Fresh t

/-- R40, U1, U2, U10: what lies behind a valid flag of 0 has no effect: two states the host cannot tell apart step to
outcomes it cannot tell apart. -/
def Obligations.UnspecifiedStateIsUnobservable : Prop :=
  ∀ s t : State, SameToHost s t → SameOutcome (step s) (step t)

/-- R71: "Issuing the same command word twice in a row gives the same state after the second as after the first": of
every meaning, and of every command word, legal or not, as two steps. The second step takes the word from the host's
queue and changes nothing else (log 1), the model's generations included (log 17). -/
def Obligations.ReissueChangesNothing : Prop :=
  (∀ (i : Instr) (s t : State), i.wf = true → Inv s → exec i s = .next t → exec i t = .next t) ∧
  (∀ (s t : State) (w : Word) (rest : List HostAction), Inv s → s.pending = .issue w :: .issue w :: rest →
    step s = .next t → step t = .next { t with pending := rest })
end

