-- ==== Sys2Proof/Laws/State.lean ====
section
/-! SUPPORT. What each named update of State and of STATUS leaves in each field, so that no proof unfolds a record
update. -/

namespace Sys2Proof.Machine

@[simp] theorem complete_cfg (code : BitVec 8) (stage : BitVec 4) (info : Nat) (s : State) :
    (complete code stage info s).cfg = s.cfg := rfl
@[simp] theorem complete_imeta (code : BitVec 8) (stage : BitVec 4) (info : Nat) (s : State) :
    (complete code stage info s).imeta = s.imeta := rfl
@[simp] theorem complete_ibufLen (code : BitVec 8) (stage : BitVec 4) (info : Nat) (s : State) :
    (complete code stage info s).ibufLen = s.ibufLen := rfl
@[simp] theorem complete_palLen (code : BitVec 8) (stage : BitVec 4) (info : Nat) (s : State) :
    (complete code stage info s).palLen = s.palLen := rfl
@[simp] theorem complete_ogW (code : BitVec 8) (stage : BitVec 4) (info : Nat) (s : State) :
    (complete code stage info s).ogW = s.ogW := rfl
@[simp] theorem complete_ogH (code : BitVec 8) (stage : BitVec 4) (info : Nat) (s : State) :
    (complete code stage info s).ogH = s.ogH := rfl
@[simp] theorem complete_tgW (code : BitVec 8) (stage : BitVec 4) (info : Nat) (s : State) :
    (complete code stage info s).tgW = s.tgW := rfl
@[simp] theorem complete_tgH (code : BitVec 8) (stage : BitVec 4) (info : Nat) (s : State) :
    (complete code stage info s).tgH = s.tgH := rfl
@[simp] theorem complete_rgW (code : BitVec 8) (stage : BitVec 4) (info : Nat) (s : State) :
    (complete code stage info s).rgW = s.rgW := rfl
@[simp] theorem complete_rgH (code : BitVec 8) (stage : BitVec 4) (info : Nat) (s : State) :
    (complete code stage info s).rgH = s.rgH := rfl
@[simp] theorem complete_obufLen (code : BitVec 8) (stage : BitVec 4) (info : Nat) (s : State) :
    (complete code stage info s).obufLen = s.obufLen := rfl
@[simp] theorem complete_status (code : BitVec 8) (stage : BitVec 4) (info : Nat) (s : State) :
    (complete code stage info s).status = { s.status with errSeen := s.status.errSeen || decide (code ≠ 0), busy := false } := rfl
@[simp] theorem complete_err (code : BitVec 8) (stage : BitVec 4) (info : Nat) (s : State) :
    (complete code stage info s).err = ⟨code, stage⟩ := rfl
@[simp] theorem complete_errInfo (code : BitVec 8) (stage : BitVec 4) (info : Nat) (s : State) :
    (complete code stage info s).errInfo = BitVec.ofNat 32 info := rfl
@[simp] theorem complete_ibuf (code : BitVec 8) (stage : BitVec 4) (info : Nat) (s : State) :
    (complete code stage info s).ibuf = s.ibuf := rfl
@[simp] theorem complete_pal (code : BitVec 8) (stage : BitVec 4) (info : Nat) (s : State) :
    (complete code stage info s).pal = s.pal := rfl
@[simp] theorem complete_ogrid (code : BitVec 8) (stage : BitVec 4) (info : Nat) (s : State) :
    (complete code stage info s).ogrid = s.ogrid := rfl
@[simp] theorem complete_tgrid (code : BitVec 8) (stage : BitVec 4) (info : Nat) (s : State) :
    (complete code stage info s).tgrid = s.tgrid := rfl
@[simp] theorem complete_rgrid (code : BitVec 8) (stage : BitVec 4) (info : Nat) (s : State) :
    (complete code stage info s).rgrid = s.rgrid := rfl
@[simp] theorem complete_obuf (code : BitVec 8) (stage : BitVec 4) (info : Nat) (s : State) :
    (complete code stage info s).obuf = s.obuf := rfl
@[simp] theorem complete_pending (code : BitVec 8) (stage : BitVec 4) (info : Nat) (s : State) :
    (complete code stage info s).pending = s.pending := rfl
@[simp] theorem complete_hostData (code : BitVec 8) (stage : BitVec 4) (info : Nat) (s : State) :
    (complete code stage info s).hostData = s.hostData := rfl
@[simp] theorem complete_freeCount (code : BitVec 8) (stage : BitVec 4) (info : Nat) (s : State) :
    (complete code stage info s).freeCount = s.freeCount := rfl
@[simp] theorem complete_gens (code : BitVec 8) (stage : BitVec 4) (info : Nat) (s : State) :
    (complete code stage info s).gens = s.gens := rfl

@[simp] theorem succeed_cfg (s : State) : (succeed s).cfg = s.cfg := rfl
@[simp] theorem succeed_imeta (s : State) : (succeed s).imeta = s.imeta := rfl
@[simp] theorem succeed_ibufLen (s : State) : (succeed s).ibufLen = s.ibufLen := rfl
@[simp] theorem succeed_palLen (s : State) : (succeed s).palLen = s.palLen := rfl
@[simp] theorem succeed_ogW (s : State) : (succeed s).ogW = s.ogW := rfl
@[simp] theorem succeed_ogH (s : State) : (succeed s).ogH = s.ogH := rfl
@[simp] theorem succeed_tgW (s : State) : (succeed s).tgW = s.tgW := rfl
@[simp] theorem succeed_tgH (s : State) : (succeed s).tgH = s.tgH := rfl
@[simp] theorem succeed_rgW (s : State) : (succeed s).rgW = s.rgW := rfl
@[simp] theorem succeed_rgH (s : State) : (succeed s).rgH = s.rgH := rfl
@[simp] theorem succeed_obufLen (s : State) : (succeed s).obufLen = s.obufLen := rfl
@[simp] theorem succeed_err (s : State) : (succeed s).err = ⟨0, 0⟩ := rfl
@[simp] theorem succeed_errInfo (s : State) : (succeed s).errInfo = 0 := rfl
@[simp] theorem succeed_ibuf (s : State) : (succeed s).ibuf = s.ibuf := rfl
@[simp] theorem succeed_pal (s : State) : (succeed s).pal = s.pal := rfl
@[simp] theorem succeed_ogrid (s : State) : (succeed s).ogrid = s.ogrid := rfl
@[simp] theorem succeed_tgrid (s : State) : (succeed s).tgrid = s.tgrid := rfl
@[simp] theorem succeed_rgrid (s : State) : (succeed s).rgrid = s.rgrid := rfl
@[simp] theorem succeed_obuf (s : State) : (succeed s).obuf = s.obuf := rfl
@[simp] theorem succeed_pending (s : State) : (succeed s).pending = s.pending := rfl
@[simp] theorem succeed_hostData (s : State) : (succeed s).hostData = s.hostData := rfl
@[simp] theorem succeed_freeCount (s : State) : (succeed s).freeCount = s.freeCount := rfl
@[simp] theorem succeed_gens (s : State) : (succeed s).gens = s.gens := rfl

@[simp] theorem takeError_cfg (e : Raise) (stage : BitVec 4) (s : State) : (takeError e stage s).cfg = s.cfg := rfl
@[simp] theorem takeError_imeta (e : Raise) (stage : BitVec 4) (s : State) :
    (takeError e stage s).imeta = s.imeta := rfl
@[simp] theorem takeError_ibufLen (e : Raise) (stage : BitVec 4) (s : State) :
    (takeError e stage s).ibufLen = s.ibufLen := rfl
@[simp] theorem takeError_palLen (e : Raise) (stage : BitVec 4) (s : State) :
    (takeError e stage s).palLen = s.palLen := rfl
@[simp] theorem takeError_ogW (e : Raise) (stage : BitVec 4) (s : State) : (takeError e stage s).ogW = s.ogW := rfl
@[simp] theorem takeError_ogH (e : Raise) (stage : BitVec 4) (s : State) : (takeError e stage s).ogH = s.ogH := rfl
@[simp] theorem takeError_tgW (e : Raise) (stage : BitVec 4) (s : State) : (takeError e stage s).tgW = s.tgW := rfl
@[simp] theorem takeError_tgH (e : Raise) (stage : BitVec 4) (s : State) : (takeError e stage s).tgH = s.tgH := rfl
@[simp] theorem takeError_rgW (e : Raise) (stage : BitVec 4) (s : State) : (takeError e stage s).rgW = s.rgW := rfl
@[simp] theorem takeError_rgH (e : Raise) (stage : BitVec 4) (s : State) : (takeError e stage s).rgH = s.rgH := rfl
@[simp] theorem takeError_obufLen (e : Raise) (stage : BitVec 4) (s : State) :
    (takeError e stage s).obufLen = s.obufLen := rfl
@[simp] theorem takeError_err (e : Raise) (stage : BitVec 4) (s : State) :
    (takeError e stage s).err = ⟨errorCode e.kind, stage⟩ := rfl
@[simp] theorem takeError_errInfo (e : Raise) (stage : BitVec 4) (s : State) :
    (takeError e stage s).errInfo = BitVec.ofNat 32 e.info := rfl
@[simp] theorem takeError_ibuf (e : Raise) (stage : BitVec 4) (s : State) : (takeError e stage s).ibuf = s.ibuf := rfl
@[simp] theorem takeError_pal (e : Raise) (stage : BitVec 4) (s : State) : (takeError e stage s).pal = s.pal := rfl
@[simp] theorem takeError_ogrid (e : Raise) (stage : BitVec 4) (s : State) :
    (takeError e stage s).ogrid = s.ogrid := rfl
@[simp] theorem takeError_tgrid (e : Raise) (stage : BitVec 4) (s : State) :
    (takeError e stage s).tgrid = s.tgrid := rfl
@[simp] theorem takeError_rgrid (e : Raise) (stage : BitVec 4) (s : State) :
    (takeError e stage s).rgrid = s.rgrid := rfl
@[simp] theorem takeError_obuf (e : Raise) (stage : BitVec 4) (s : State) : (takeError e stage s).obuf = s.obuf := rfl
@[simp] theorem takeError_pending (e : Raise) (stage : BitVec 4) (s : State) :
    (takeError e stage s).pending = s.pending := rfl
@[simp] theorem takeError_hostData (e : Raise) (stage : BitVec 4) (s : State) :
    (takeError e stage s).hostData = s.hostData := rfl
@[simp] theorem takeError_freeCount (e : Raise) (stage : BitVec 4) (s : State) :
    (takeError e stage s).freeCount = s.freeCount := rfl
@[simp] theorem takeError_gens (e : Raise) (stage : BitVec 4) (s : State) :
    (takeError e stage s).gens = s.gens := rfl

@[simp] theorem startWith_cfg (f : Status → Status) (s : State) : (startWith f s).cfg = s.cfg := rfl
@[simp] theorem startWith_imeta (f : Status → Status) (s : State) : (startWith f s).imeta = s.imeta := rfl
@[simp] theorem startWith_ibufLen (f : Status → Status) (s : State) : (startWith f s).ibufLen = s.ibufLen := rfl
@[simp] theorem startWith_palLen (f : Status → Status) (s : State) : (startWith f s).palLen = s.palLen := rfl
@[simp] theorem startWith_ogW (f : Status → Status) (s : State) : (startWith f s).ogW = s.ogW := rfl
@[simp] theorem startWith_ogH (f : Status → Status) (s : State) : (startWith f s).ogH = s.ogH := rfl
@[simp] theorem startWith_tgW (f : Status → Status) (s : State) : (startWith f s).tgW = s.tgW := rfl
@[simp] theorem startWith_tgH (f : Status → Status) (s : State) : (startWith f s).tgH = s.tgH := rfl
@[simp] theorem startWith_rgW (f : Status → Status) (s : State) : (startWith f s).rgW = s.rgW := rfl
@[simp] theorem startWith_rgH (f : Status → Status) (s : State) : (startWith f s).rgH = s.rgH := rfl
@[simp] theorem startWith_obufLen (f : Status → Status) (s : State) : (startWith f s).obufLen = s.obufLen := rfl
@[simp] theorem startWith_status (f : Status → Status) (s : State) : (startWith f s).status = f s.status := rfl
@[simp] theorem startWith_err (f : Status → Status) (s : State) : (startWith f s).err = s.err := rfl
@[simp] theorem startWith_errInfo (f : Status → Status) (s : State) : (startWith f s).errInfo = s.errInfo := rfl
@[simp] theorem startWith_ibuf (f : Status → Status) (s : State) : (startWith f s).ibuf = s.ibuf := rfl
@[simp] theorem startWith_pal (f : Status → Status) (s : State) : (startWith f s).pal = s.pal := rfl
@[simp] theorem startWith_ogrid (f : Status → Status) (s : State) : (startWith f s).ogrid = s.ogrid := rfl
@[simp] theorem startWith_tgrid (f : Status → Status) (s : State) : (startWith f s).tgrid = s.tgrid := rfl
@[simp] theorem startWith_rgrid (f : Status → Status) (s : State) : (startWith f s).rgrid = s.rgrid := rfl
@[simp] theorem startWith_obuf (f : Status → Status) (s : State) : (startWith f s).obuf = s.obuf := rfl
@[simp] theorem startWith_pending (f : Status → Status) (s : State) : (startWith f s).pending = s.pending := rfl
@[simp] theorem startWith_hostData (f : Status → Status) (s : State) : (startWith f s).hostData = s.hostData := rfl
@[simp] theorem startWith_freeCount (f : Status → Status) (s : State) : (startWith f s).freeCount = s.freeCount := rfl
@[simp] theorem startWith_gens (f : Status → Status) (s : State) : (startWith f s).gens = s.gens := rfl

@[simp] theorem storeMeta_cfg (m : Metadata) (s : State) : (storeMeta m s).cfg = s.cfg := rfl
@[simp] theorem storeMeta_imeta (m : Metadata) (s : State) : (storeMeta m s).imeta = m := rfl
@[simp] theorem storeMeta_ibufLen (m : Metadata) (s : State) : (storeMeta m s).ibufLen = s.ibufLen := rfl
@[simp] theorem storeMeta_palLen (m : Metadata) (s : State) : (storeMeta m s).palLen = s.palLen := rfl
@[simp] theorem storeMeta_ogW (m : Metadata) (s : State) : (storeMeta m s).ogW = s.ogW := rfl
@[simp] theorem storeMeta_ogH (m : Metadata) (s : State) : (storeMeta m s).ogH = s.ogH := rfl
@[simp] theorem storeMeta_tgW (m : Metadata) (s : State) : (storeMeta m s).tgW = s.tgW := rfl
@[simp] theorem storeMeta_tgH (m : Metadata) (s : State) : (storeMeta m s).tgH = s.tgH := rfl
@[simp] theorem storeMeta_rgW (m : Metadata) (s : State) : (storeMeta m s).rgW = s.rgW := rfl
@[simp] theorem storeMeta_rgH (m : Metadata) (s : State) : (storeMeta m s).rgH = s.rgH := rfl
@[simp] theorem storeMeta_obufLen (m : Metadata) (s : State) : (storeMeta m s).obufLen = s.obufLen := rfl
@[simp] theorem storeMeta_status (m : Metadata) (s : State) :
    (storeMeta m s).status = { s.status with metaValid := true } := rfl
@[simp] theorem storeMeta_err (m : Metadata) (s : State) : (storeMeta m s).err = s.err := rfl
@[simp] theorem storeMeta_errInfo (m : Metadata) (s : State) : (storeMeta m s).errInfo = s.errInfo := rfl
@[simp] theorem storeMeta_ibuf (m : Metadata) (s : State) : (storeMeta m s).ibuf = s.ibuf := rfl
@[simp] theorem storeMeta_pal (m : Metadata) (s : State) : (storeMeta m s).pal = s.pal := rfl
@[simp] theorem storeMeta_ogrid (m : Metadata) (s : State) : (storeMeta m s).ogrid = s.ogrid := rfl
@[simp] theorem storeMeta_tgrid (m : Metadata) (s : State) : (storeMeta m s).tgrid = s.tgrid := rfl
@[simp] theorem storeMeta_rgrid (m : Metadata) (s : State) : (storeMeta m s).rgrid = s.rgrid := rfl
@[simp] theorem storeMeta_obuf (m : Metadata) (s : State) : (storeMeta m s).obuf = s.obuf := rfl
@[simp] theorem storeMeta_pending (m : Metadata) (s : State) : (storeMeta m s).pending = s.pending := rfl
@[simp] theorem storeMeta_hostData (m : Metadata) (s : State) : (storeMeta m s).hostData = s.hostData := rfl
@[simp] theorem storeMeta_freeCount (m : Metadata) (s : State) : (storeMeta m s).freeCount = s.freeCount := rfl
@[simp] theorem storeMeta_gens (m : Metadata) (s : State) : (storeMeta m s).gens = s.gens := rfl

@[simp] theorem storePal_cfg (p : List RGB) (s : State) : (storePal p s).cfg = s.cfg := rfl
@[simp] theorem storePal_imeta (p : List RGB) (s : State) : (storePal p s).imeta = s.imeta := rfl
@[simp] theorem storePal_ibufLen (p : List RGB) (s : State) : (storePal p s).ibufLen = s.ibufLen := rfl
@[simp] theorem storePal_palLen (p : List RGB) (s : State) : (storePal p s).palLen = BitVec.ofNat 32 p.length := rfl
@[simp] theorem storePal_ogW (p : List RGB) (s : State) : (storePal p s).ogW = s.ogW := rfl
@[simp] theorem storePal_ogH (p : List RGB) (s : State) : (storePal p s).ogH = s.ogH := rfl
@[simp] theorem storePal_tgW (p : List RGB) (s : State) : (storePal p s).tgW = s.tgW := rfl
@[simp] theorem storePal_tgH (p : List RGB) (s : State) : (storePal p s).tgH = s.tgH := rfl
@[simp] theorem storePal_rgW (p : List RGB) (s : State) : (storePal p s).rgW = s.rgW := rfl
@[simp] theorem storePal_rgH (p : List RGB) (s : State) : (storePal p s).rgH = s.rgH := rfl
@[simp] theorem storePal_obufLen (p : List RGB) (s : State) : (storePal p s).obufLen = s.obufLen := rfl
@[simp] theorem storePal_status (p : List RGB) (s : State) :
    (storePal p s).status = { s.status with palValid := true } := rfl
@[simp] theorem storePal_err (p : List RGB) (s : State) : (storePal p s).err = s.err := rfl
@[simp] theorem storePal_errInfo (p : List RGB) (s : State) : (storePal p s).errInfo = s.errInfo := rfl
@[simp] theorem storePal_ibuf (p : List RGB) (s : State) : (storePal p s).ibuf = s.ibuf := rfl
@[simp] theorem storePal_pal (p : List RGB) (s : State) : (storePal p s).pal = Memory.writeAll s.pal 0 p := rfl
@[simp] theorem storePal_ogrid (p : List RGB) (s : State) : (storePal p s).ogrid = s.ogrid := rfl
@[simp] theorem storePal_tgrid (p : List RGB) (s : State) : (storePal p s).tgrid = s.tgrid := rfl
@[simp] theorem storePal_rgrid (p : List RGB) (s : State) : (storePal p s).rgrid = s.rgrid := rfl
@[simp] theorem storePal_obuf (p : List RGB) (s : State) : (storePal p s).obuf = s.obuf := rfl
@[simp] theorem storePal_pending (p : List RGB) (s : State) : (storePal p s).pending = s.pending := rfl
@[simp] theorem storePal_hostData (p : List RGB) (s : State) : (storePal p s).hostData = s.hostData := rfl
@[simp] theorem storePal_freeCount (p : List RGB) (s : State) : (storePal p s).freeCount = s.freeCount := rfl
@[simp] theorem storePal_gens (p : List RGB) (s : State) : (storePal p s).gens = s.gens := rfl

@[simp] theorem storeOgrid_cfg (g : Grid) (s : State) : (storeOgrid g s).cfg = s.cfg := rfl
@[simp] theorem storeOgrid_imeta (g : Grid) (s : State) : (storeOgrid g s).imeta = s.imeta := rfl
@[simp] theorem storeOgrid_ibufLen (g : Grid) (s : State) : (storeOgrid g s).ibufLen = s.ibufLen := rfl
@[simp] theorem storeOgrid_palLen (g : Grid) (s : State) : (storeOgrid g s).palLen = s.palLen := rfl
@[simp] theorem storeOgrid_ogW (g : Grid) (s : State) : (storeOgrid g s).ogW = g.w := rfl
@[simp] theorem storeOgrid_ogH (g : Grid) (s : State) : (storeOgrid g s).ogH = g.h := rfl
@[simp] theorem storeOgrid_tgW (g : Grid) (s : State) : (storeOgrid g s).tgW = s.tgW := rfl
@[simp] theorem storeOgrid_tgH (g : Grid) (s : State) : (storeOgrid g s).tgH = s.tgH := rfl
@[simp] theorem storeOgrid_rgW (g : Grid) (s : State) : (storeOgrid g s).rgW = s.rgW := rfl
@[simp] theorem storeOgrid_rgH (g : Grid) (s : State) : (storeOgrid g s).rgH = s.rgH := rfl
@[simp] theorem storeOgrid_obufLen (g : Grid) (s : State) : (storeOgrid g s).obufLen = s.obufLen := rfl
@[simp] theorem storeOgrid_status (g : Grid) (s : State) :
    (storeOgrid g s).status = { s.status with ogridValid := true } := rfl
@[simp] theorem storeOgrid_err (g : Grid) (s : State) : (storeOgrid g s).err = s.err := rfl
@[simp] theorem storeOgrid_errInfo (g : Grid) (s : State) : (storeOgrid g s).errInfo = s.errInfo := rfl
@[simp] theorem storeOgrid_ibuf (g : Grid) (s : State) : (storeOgrid g s).ibuf = s.ibuf := rfl
@[simp] theorem storeOgrid_pal (g : Grid) (s : State) : (storeOgrid g s).pal = s.pal := rfl
@[simp] theorem storeOgrid_ogrid (g : Grid) (s : State) :
    (storeOgrid g s).ogrid = Memory.writeAll s.ogrid 0 g.px := rfl
@[simp] theorem storeOgrid_tgrid (g : Grid) (s : State) : (storeOgrid g s).tgrid = s.tgrid := rfl
@[simp] theorem storeOgrid_rgrid (g : Grid) (s : State) : (storeOgrid g s).rgrid = s.rgrid := rfl
@[simp] theorem storeOgrid_obuf (g : Grid) (s : State) : (storeOgrid g s).obuf = s.obuf := rfl
@[simp] theorem storeOgrid_pending (g : Grid) (s : State) : (storeOgrid g s).pending = s.pending := rfl
@[simp] theorem storeOgrid_hostData (g : Grid) (s : State) : (storeOgrid g s).hostData = s.hostData := rfl
@[simp] theorem storeOgrid_freeCount (g : Grid) (s : State) : (storeOgrid g s).freeCount = s.freeCount := rfl
@[simp] theorem storeOgrid_gens (g : Grid) (s : State) : (storeOgrid g s).gens = s.gens := rfl

@[simp] theorem storeTgrid_cfg (g : Grid) (s : State) : (storeTgrid g s).cfg = s.cfg := rfl
@[simp] theorem storeTgrid_imeta (g : Grid) (s : State) : (storeTgrid g s).imeta = s.imeta := rfl
@[simp] theorem storeTgrid_ibufLen (g : Grid) (s : State) : (storeTgrid g s).ibufLen = s.ibufLen := rfl
@[simp] theorem storeTgrid_palLen (g : Grid) (s : State) : (storeTgrid g s).palLen = s.palLen := rfl
@[simp] theorem storeTgrid_ogW (g : Grid) (s : State) : (storeTgrid g s).ogW = s.ogW := rfl
@[simp] theorem storeTgrid_ogH (g : Grid) (s : State) : (storeTgrid g s).ogH = s.ogH := rfl
@[simp] theorem storeTgrid_tgW (g : Grid) (s : State) : (storeTgrid g s).tgW = g.w := rfl
@[simp] theorem storeTgrid_tgH (g : Grid) (s : State) : (storeTgrid g s).tgH = g.h := rfl
@[simp] theorem storeTgrid_rgW (g : Grid) (s : State) : (storeTgrid g s).rgW = s.rgW := rfl
@[simp] theorem storeTgrid_rgH (g : Grid) (s : State) : (storeTgrid g s).rgH = s.rgH := rfl
@[simp] theorem storeTgrid_obufLen (g : Grid) (s : State) : (storeTgrid g s).obufLen = s.obufLen := rfl
@[simp] theorem storeTgrid_status (g : Grid) (s : State) :
    (storeTgrid g s).status = { s.status with tgridValid := true } := rfl
@[simp] theorem storeTgrid_err (g : Grid) (s : State) : (storeTgrid g s).err = s.err := rfl
@[simp] theorem storeTgrid_errInfo (g : Grid) (s : State) : (storeTgrid g s).errInfo = s.errInfo := rfl
@[simp] theorem storeTgrid_ibuf (g : Grid) (s : State) : (storeTgrid g s).ibuf = s.ibuf := rfl
@[simp] theorem storeTgrid_pal (g : Grid) (s : State) : (storeTgrid g s).pal = s.pal := rfl
@[simp] theorem storeTgrid_ogrid (g : Grid) (s : State) : (storeTgrid g s).ogrid = s.ogrid := rfl
@[simp] theorem storeTgrid_tgrid (g : Grid) (s : State) :
    (storeTgrid g s).tgrid = Memory.writeAll s.tgrid 0 g.px := rfl
@[simp] theorem storeTgrid_rgrid (g : Grid) (s : State) : (storeTgrid g s).rgrid = s.rgrid := rfl
@[simp] theorem storeTgrid_obuf (g : Grid) (s : State) : (storeTgrid g s).obuf = s.obuf := rfl
@[simp] theorem storeTgrid_pending (g : Grid) (s : State) : (storeTgrid g s).pending = s.pending := rfl
@[simp] theorem storeTgrid_hostData (g : Grid) (s : State) : (storeTgrid g s).hostData = s.hostData := rfl
@[simp] theorem storeTgrid_freeCount (g : Grid) (s : State) : (storeTgrid g s).freeCount = s.freeCount := rfl
@[simp] theorem storeTgrid_gens (g : Grid) (s : State) : (storeTgrid g s).gens = s.gens := rfl

@[simp] theorem storeRgrid_cfg (g : Grid) (s : State) : (storeRgrid g s).cfg = s.cfg := rfl
@[simp] theorem storeRgrid_imeta (g : Grid) (s : State) : (storeRgrid g s).imeta = s.imeta := rfl
@[simp] theorem storeRgrid_ibufLen (g : Grid) (s : State) : (storeRgrid g s).ibufLen = s.ibufLen := rfl
@[simp] theorem storeRgrid_palLen (g : Grid) (s : State) : (storeRgrid g s).palLen = s.palLen := rfl
@[simp] theorem storeRgrid_ogW (g : Grid) (s : State) : (storeRgrid g s).ogW = s.ogW := rfl
@[simp] theorem storeRgrid_ogH (g : Grid) (s : State) : (storeRgrid g s).ogH = s.ogH := rfl
@[simp] theorem storeRgrid_tgW (g : Grid) (s : State) : (storeRgrid g s).tgW = s.tgW := rfl
@[simp] theorem storeRgrid_tgH (g : Grid) (s : State) : (storeRgrid g s).tgH = s.tgH := rfl
@[simp] theorem storeRgrid_rgW (g : Grid) (s : State) : (storeRgrid g s).rgW = g.w := rfl
@[simp] theorem storeRgrid_rgH (g : Grid) (s : State) : (storeRgrid g s).rgH = g.h := rfl
@[simp] theorem storeRgrid_obufLen (g : Grid) (s : State) : (storeRgrid g s).obufLen = s.obufLen := rfl
@[simp] theorem storeRgrid_status (g : Grid) (s : State) :
    (storeRgrid g s).status = { s.status with rgridValid := true } := rfl
@[simp] theorem storeRgrid_err (g : Grid) (s : State) : (storeRgrid g s).err = s.err := rfl
@[simp] theorem storeRgrid_errInfo (g : Grid) (s : State) : (storeRgrid g s).errInfo = s.errInfo := rfl
@[simp] theorem storeRgrid_ibuf (g : Grid) (s : State) : (storeRgrid g s).ibuf = s.ibuf := rfl
@[simp] theorem storeRgrid_pal (g : Grid) (s : State) : (storeRgrid g s).pal = s.pal := rfl
@[simp] theorem storeRgrid_ogrid (g : Grid) (s : State) : (storeRgrid g s).ogrid = s.ogrid := rfl
@[simp] theorem storeRgrid_tgrid (g : Grid) (s : State) : (storeRgrid g s).tgrid = s.tgrid := rfl
@[simp] theorem storeRgrid_rgrid (g : Grid) (s : State) :
    (storeRgrid g s).rgrid = Memory.writeAll s.rgrid 0 g.px := rfl
@[simp] theorem storeRgrid_obuf (g : Grid) (s : State) : (storeRgrid g s).obuf = s.obuf := rfl
@[simp] theorem storeRgrid_pending (g : Grid) (s : State) : (storeRgrid g s).pending = s.pending := rfl
@[simp] theorem storeRgrid_hostData (g : Grid) (s : State) : (storeRgrid g s).hostData = s.hostData := rfl
@[simp] theorem storeRgrid_freeCount (g : Grid) (s : State) : (storeRgrid g s).freeCount = s.freeCount := rfl
@[simp] theorem storeRgrid_gens (g : Grid) (s : State) : (storeRgrid g s).gens = s.gens := rfl

@[simp] theorem storeObuf_cfg (l : List Byte) (s : State) : (storeObuf l s).cfg = s.cfg := rfl
@[simp] theorem storeObuf_imeta (l : List Byte) (s : State) : (storeObuf l s).imeta = s.imeta := rfl
@[simp] theorem storeObuf_ibufLen (l : List Byte) (s : State) : (storeObuf l s).ibufLen = s.ibufLen := rfl
@[simp] theorem storeObuf_palLen (l : List Byte) (s : State) : (storeObuf l s).palLen = s.palLen := rfl
@[simp] theorem storeObuf_ogW (l : List Byte) (s : State) : (storeObuf l s).ogW = s.ogW := rfl
@[simp] theorem storeObuf_ogH (l : List Byte) (s : State) : (storeObuf l s).ogH = s.ogH := rfl
@[simp] theorem storeObuf_tgW (l : List Byte) (s : State) : (storeObuf l s).tgW = s.tgW := rfl
@[simp] theorem storeObuf_tgH (l : List Byte) (s : State) : (storeObuf l s).tgH = s.tgH := rfl
@[simp] theorem storeObuf_rgW (l : List Byte) (s : State) : (storeObuf l s).rgW = s.rgW := rfl
@[simp] theorem storeObuf_rgH (l : List Byte) (s : State) : (storeObuf l s).rgH = s.rgH := rfl
@[simp] theorem storeObuf_obufLen (l : List Byte) (s : State) : (storeObuf l s).obufLen = l.length := rfl
@[simp] theorem storeObuf_status (l : List Byte) (s : State) :
    (storeObuf l s).status = { s.status with obufValid := true } := rfl
@[simp] theorem storeObuf_err (l : List Byte) (s : State) : (storeObuf l s).err = s.err := rfl
@[simp] theorem storeObuf_errInfo (l : List Byte) (s : State) : (storeObuf l s).errInfo = s.errInfo := rfl
@[simp] theorem storeObuf_ibuf (l : List Byte) (s : State) : (storeObuf l s).ibuf = s.ibuf := rfl
@[simp] theorem storeObuf_pal (l : List Byte) (s : State) : (storeObuf l s).pal = s.pal := rfl
@[simp] theorem storeObuf_ogrid (l : List Byte) (s : State) : (storeObuf l s).ogrid = s.ogrid := rfl
@[simp] theorem storeObuf_tgrid (l : List Byte) (s : State) : (storeObuf l s).tgrid = s.tgrid := rfl
@[simp] theorem storeObuf_rgrid (l : List Byte) (s : State) : (storeObuf l s).rgrid = s.rgrid := rfl
@[simp] theorem storeObuf_obuf (l : List Byte) (s : State) : (storeObuf l s).obuf = Memory.writeAll s.obuf 0 l := rfl
@[simp] theorem storeObuf_pending (l : List Byte) (s : State) : (storeObuf l s).pending = s.pending := rfl
@[simp] theorem storeObuf_hostData (l : List Byte) (s : State) : (storeObuf l s).hostData = s.hostData := rfl
@[simp] theorem storeObuf_freeCount (l : List Byte) (s : State) : (storeObuf l s).freeCount = s.freeCount := rfl
@[simp] theorem storeObuf_gens (l : List Byte) (s : State) : (storeObuf l s).gens = s.gens := rfl

@[simp] theorem loadFile_cfg (l : List Byte) (s : State) : (loadFile l s).cfg = s.cfg := rfl
@[simp] theorem loadFile_imeta (l : List Byte) (s : State) : (loadFile l s).imeta = s.imeta := rfl
@[simp] theorem loadFile_ibufLen (l : List Byte) (s : State) : (loadFile l s).ibufLen = l.length := rfl
@[simp] theorem loadFile_palLen (l : List Byte) (s : State) : (loadFile l s).palLen = s.palLen := rfl
@[simp] theorem loadFile_ogW (l : List Byte) (s : State) : (loadFile l s).ogW = s.ogW := rfl
@[simp] theorem loadFile_ogH (l : List Byte) (s : State) : (loadFile l s).ogH = s.ogH := rfl
@[simp] theorem loadFile_tgW (l : List Byte) (s : State) : (loadFile l s).tgW = s.tgW := rfl
@[simp] theorem loadFile_tgH (l : List Byte) (s : State) : (loadFile l s).tgH = s.tgH := rfl
@[simp] theorem loadFile_rgW (l : List Byte) (s : State) : (loadFile l s).rgW = s.rgW := rfl
@[simp] theorem loadFile_rgH (l : List Byte) (s : State) : (loadFile l s).rgH = s.rgH := rfl
@[simp] theorem loadFile_obufLen (l : List Byte) (s : State) : (loadFile l s).obufLen = s.obufLen := rfl
@[simp] theorem loadFile_status (l : List Byte) (s : State) :
    (loadFile l s).status = { clearMeta s.status with ibufValid := true } := rfl
@[simp] theorem loadFile_err (l : List Byte) (s : State) : (loadFile l s).err = s.err := rfl
@[simp] theorem loadFile_errInfo (l : List Byte) (s : State) : (loadFile l s).errInfo = s.errInfo := rfl
@[simp] theorem loadFile_ibuf (l : List Byte) (s : State) : (loadFile l s).ibuf = Memory.writeAll s.ibuf 0 l := rfl
@[simp] theorem loadFile_pal (l : List Byte) (s : State) : (loadFile l s).pal = s.pal := rfl
@[simp] theorem loadFile_ogrid (l : List Byte) (s : State) : (loadFile l s).ogrid = s.ogrid := rfl
@[simp] theorem loadFile_tgrid (l : List Byte) (s : State) : (loadFile l s).tgrid = s.tgrid := rfl
@[simp] theorem loadFile_rgrid (l : List Byte) (s : State) : (loadFile l s).rgrid = s.rgrid := rfl
@[simp] theorem loadFile_obuf (l : List Byte) (s : State) : (loadFile l s).obuf = s.obuf := rfl
@[simp] theorem loadFile_pending (l : List Byte) (s : State) : (loadFile l s).pending = s.pending := rfl
@[simp] theorem loadFile_hostData (l : List Byte) (s : State) : (loadFile l s).hostData = s.hostData := rfl
@[simp] theorem loadFile_freeCount (l : List Byte) (s : State) : (loadFile l s).freeCount = s.freeCount := rfl
@[simp] theorem loadFile_gens (l : List Byte) (s : State) : (loadFile l s).gens = s.gens := rfl

@[simp] theorem answer_cfg (d : HostData) (s : State) : (answer d s).cfg = s.cfg := rfl
@[simp] theorem answer_imeta (d : HostData) (s : State) : (answer d s).imeta = s.imeta := rfl
@[simp] theorem answer_ibufLen (d : HostData) (s : State) : (answer d s).ibufLen = s.ibufLen := rfl
@[simp] theorem answer_palLen (d : HostData) (s : State) : (answer d s).palLen = s.palLen := rfl
@[simp] theorem answer_ogW (d : HostData) (s : State) : (answer d s).ogW = s.ogW := rfl
@[simp] theorem answer_ogH (d : HostData) (s : State) : (answer d s).ogH = s.ogH := rfl
@[simp] theorem answer_tgW (d : HostData) (s : State) : (answer d s).tgW = s.tgW := rfl
@[simp] theorem answer_tgH (d : HostData) (s : State) : (answer d s).tgH = s.tgH := rfl
@[simp] theorem answer_rgW (d : HostData) (s : State) : (answer d s).rgW = s.rgW := rfl
@[simp] theorem answer_rgH (d : HostData) (s : State) : (answer d s).rgH = s.rgH := rfl
@[simp] theorem answer_obufLen (d : HostData) (s : State) : (answer d s).obufLen = s.obufLen := rfl
@[simp] theorem answer_status (d : HostData) (s : State) : (answer d s).status = s.status := rfl
@[simp] theorem answer_err (d : HostData) (s : State) : (answer d s).err = s.err := rfl
@[simp] theorem answer_errInfo (d : HostData) (s : State) : (answer d s).errInfo = s.errInfo := rfl
@[simp] theorem answer_ibuf (d : HostData) (s : State) : (answer d s).ibuf = s.ibuf := rfl
@[simp] theorem answer_pal (d : HostData) (s : State) : (answer d s).pal = s.pal := rfl
@[simp] theorem answer_ogrid (d : HostData) (s : State) : (answer d s).ogrid = s.ogrid := rfl
@[simp] theorem answer_tgrid (d : HostData) (s : State) : (answer d s).tgrid = s.tgrid := rfl
@[simp] theorem answer_rgrid (d : HostData) (s : State) : (answer d s).rgrid = s.rgrid := rfl
@[simp] theorem answer_obuf (d : HostData) (s : State) : (answer d s).obuf = s.obuf := rfl
@[simp] theorem answer_pending (d : HostData) (s : State) : (answer d s).pending = s.pending := rfl
@[simp] theorem answer_hostData (d : HostData) (s : State) : (answer d s).hostData = some d := rfl
@[simp] theorem answer_freeCount (d : HostData) (s : State) : (answer d s).freeCount = s.freeCount := rfl
@[simp] theorem answer_gens (d : HostData) (s : State) : (answer d s).gens = s.gens := rfl

@[simp] theorem answerFree_cfg (f : Nat → HostData) (s : State) : (answerFree f s).cfg = s.cfg := rfl
@[simp] theorem answerFree_imeta (f : Nat → HostData) (s : State) : (answerFree f s).imeta = s.imeta := rfl
@[simp] theorem answerFree_ibufLen (f : Nat → HostData) (s : State) : (answerFree f s).ibufLen = s.ibufLen := rfl
@[simp] theorem answerFree_palLen (f : Nat → HostData) (s : State) : (answerFree f s).palLen = s.palLen := rfl
@[simp] theorem answerFree_ogW (f : Nat → HostData) (s : State) : (answerFree f s).ogW = s.ogW := rfl
@[simp] theorem answerFree_ogH (f : Nat → HostData) (s : State) : (answerFree f s).ogH = s.ogH := rfl
@[simp] theorem answerFree_tgW (f : Nat → HostData) (s : State) : (answerFree f s).tgW = s.tgW := rfl
@[simp] theorem answerFree_tgH (f : Nat → HostData) (s : State) : (answerFree f s).tgH = s.tgH := rfl
@[simp] theorem answerFree_rgW (f : Nat → HostData) (s : State) : (answerFree f s).rgW = s.rgW := rfl
@[simp] theorem answerFree_rgH (f : Nat → HostData) (s : State) : (answerFree f s).rgH = s.rgH := rfl
@[simp] theorem answerFree_obufLen (f : Nat → HostData) (s : State) : (answerFree f s).obufLen = s.obufLen := rfl
@[simp] theorem answerFree_status (f : Nat → HostData) (s : State) : (answerFree f s).status = s.status := rfl
@[simp] theorem answerFree_err (f : Nat → HostData) (s : State) : (answerFree f s).err = s.err := rfl
@[simp] theorem answerFree_errInfo (f : Nat → HostData) (s : State) : (answerFree f s).errInfo = s.errInfo := rfl
@[simp] theorem answerFree_ibuf (f : Nat → HostData) (s : State) : (answerFree f s).ibuf = s.ibuf := rfl
@[simp] theorem answerFree_pal (f : Nat → HostData) (s : State) : (answerFree f s).pal = s.pal := rfl
@[simp] theorem answerFree_ogrid (f : Nat → HostData) (s : State) : (answerFree f s).ogrid = s.ogrid := rfl
@[simp] theorem answerFree_tgrid (f : Nat → HostData) (s : State) : (answerFree f s).tgrid = s.tgrid := rfl
@[simp] theorem answerFree_rgrid (f : Nat → HostData) (s : State) : (answerFree f s).rgrid = s.rgrid := rfl
@[simp] theorem answerFree_obuf (f : Nat → HostData) (s : State) : (answerFree f s).obuf = s.obuf := rfl
@[simp] theorem answerFree_pending (f : Nat → HostData) (s : State) : (answerFree f s).pending = s.pending := rfl
@[simp] theorem answerFree_hostData (f : Nat → HostData) (s : State) :
    (answerFree f s).hostData = some (f s.freeCount) := rfl
@[simp] theorem answerFree_freeCount (f : Nat → HostData) (s : State) :
    (answerFree f s).freeCount = s.freeCount + 1 := rfl
@[simp] theorem answerFree_gens (f : Nat → HostData) (s : State) :
    (answerFree f s).gens = s.gens := rfl

@[simp] theorem issueNext_cfg (w : Word) (s : State) : (issueNext w s).cfg = s.cfg := rfl
@[simp] theorem issueNext_imeta (w : Word) (s : State) : (issueNext w s).imeta = s.imeta := rfl
@[simp] theorem issueNext_ibufLen (w : Word) (s : State) : (issueNext w s).ibufLen = s.ibufLen := rfl
@[simp] theorem issueNext_palLen (w : Word) (s : State) : (issueNext w s).palLen = s.palLen := rfl
@[simp] theorem issueNext_ogW (w : Word) (s : State) : (issueNext w s).ogW = s.ogW := rfl
@[simp] theorem issueNext_ogH (w : Word) (s : State) : (issueNext w s).ogH = s.ogH := rfl
@[simp] theorem issueNext_tgW (w : Word) (s : State) : (issueNext w s).tgW = s.tgW := rfl
@[simp] theorem issueNext_tgH (w : Word) (s : State) : (issueNext w s).tgH = s.tgH := rfl
@[simp] theorem issueNext_rgW (w : Word) (s : State) : (issueNext w s).rgW = s.rgW := rfl
@[simp] theorem issueNext_rgH (w : Word) (s : State) : (issueNext w s).rgH = s.rgH := rfl
@[simp] theorem issueNext_obufLen (w : Word) (s : State) : (issueNext w s).obufLen = s.obufLen := rfl
@[simp] theorem issueNext_status (w : Word) (s : State) :
    (issueNext w s).status = { s.status with busy := false } := rfl
@[simp] theorem issueNext_err (w : Word) (s : State) : (issueNext w s).err = s.err := rfl
@[simp] theorem issueNext_errInfo (w : Word) (s : State) : (issueNext w s).errInfo = s.errInfo := rfl
@[simp] theorem issueNext_ibuf (w : Word) (s : State) : (issueNext w s).ibuf = s.ibuf := rfl
@[simp] theorem issueNext_pal (w : Word) (s : State) : (issueNext w s).pal = s.pal := rfl
@[simp] theorem issueNext_ogrid (w : Word) (s : State) : (issueNext w s).ogrid = s.ogrid := rfl
@[simp] theorem issueNext_tgrid (w : Word) (s : State) : (issueNext w s).tgrid = s.tgrid := rfl
@[simp] theorem issueNext_rgrid (w : Word) (s : State) : (issueNext w s).rgrid = s.rgrid := rfl
@[simp] theorem issueNext_obuf (w : Word) (s : State) : (issueNext w s).obuf = s.obuf := rfl
@[simp] theorem issueNext_pending (w : Word) (s : State) : (issueNext w s).pending = .issue w :: s.pending := rfl
@[simp] theorem issueNext_hostData (w : Word) (s : State) : (issueNext w s).hostData = s.hostData := rfl
@[simp] theorem issueNext_freeCount (w : Word) (s : State) : (issueNext w s).freeCount = s.freeCount := rfl
@[simp] theorem issueNext_gens (w : Word) (s : State) : (issueNext w s).gens = s.gens := rfl

@[simp] theorem succeed_status_busy (s : State) :
    (succeed s).status.busy = false := rfl
@[simp] theorem succeed_status_ibufValid (s : State) :
    (succeed s).status.ibufValid = s.status.ibufValid := rfl
@[simp] theorem succeed_status_metaValid (s : State) :
    (succeed s).status.metaValid = s.status.metaValid := rfl
@[simp] theorem succeed_status_palValid (s : State) :
    (succeed s).status.palValid = s.status.palValid := rfl
@[simp] theorem succeed_status_ogridValid (s : State) :
    (succeed s).status.ogridValid = s.status.ogridValid := rfl
@[simp] theorem succeed_status_tgridValid (s : State) :
    (succeed s).status.tgridValid = s.status.tgridValid := rfl
@[simp] theorem succeed_status_rgridValid (s : State) :
    (succeed s).status.rgridValid = s.status.rgridValid := rfl
@[simp] theorem succeed_status_obufValid (s : State) :
    (succeed s).status.obufValid = s.status.obufValid := rfl
@[simp] theorem succeed_status_errSeen (s : State) :
    (succeed s).status.errSeen = s.status.errSeen := by
  simp [succeed, complete]

@[simp] theorem takeError_status_busy (e : Raise) (stage : BitVec 4) (s : State) :
    (takeError e stage s).status.busy = false := rfl
@[simp] theorem takeError_status_ibufValid (e : Raise) (stage : BitVec 4) (s : State) :
    (takeError e stage s).status.ibufValid = s.status.ibufValid := rfl
@[simp] theorem takeError_status_metaValid (e : Raise) (stage : BitVec 4) (s : State) :
    (takeError e stage s).status.metaValid = s.status.metaValid := rfl
@[simp] theorem takeError_status_palValid (e : Raise) (stage : BitVec 4) (s : State) :
    (takeError e stage s).status.palValid = s.status.palValid := rfl
@[simp] theorem takeError_status_ogridValid (e : Raise) (stage : BitVec 4) (s : State) :
    (takeError e stage s).status.ogridValid = s.status.ogridValid := rfl
@[simp] theorem takeError_status_tgridValid (e : Raise) (stage : BitVec 4) (s : State) :
    (takeError e stage s).status.tgridValid = s.status.tgridValid := rfl
@[simp] theorem takeError_status_rgridValid (e : Raise) (stage : BitVec 4) (s : State) :
    (takeError e stage s).status.rgridValid = s.status.rgridValid := rfl
@[simp] theorem takeError_status_obufValid (e : Raise) (stage : BitVec 4) (s : State) :
    (takeError e stage s).status.obufValid = s.status.obufValid := rfl
@[simp] theorem takeError_status_errSeen (e : Raise) (stage : BitVec 4) (s : State) :
    (takeError e stage s).status.errSeen = true := by
  cases e with | mk k i => cases k <;> simp [takeError, complete, errorCode]

@[simp] theorem clearMeta_busy (st : Status) : (clearMeta st).busy = st.busy := rfl
@[simp] theorem clearMeta_ibufValid (st : Status) : (clearMeta st).ibufValid = st.ibufValid := rfl
@[simp] theorem clearMeta_metaValid (st : Status) : (clearMeta st).metaValid = false := rfl
@[simp] theorem clearMeta_palValid (st : Status) : (clearMeta st).palValid = false := rfl
@[simp] theorem clearMeta_ogridValid (st : Status) : (clearMeta st).ogridValid = false := rfl
@[simp] theorem clearMeta_tgridValid (st : Status) : (clearMeta st).tgridValid = false := rfl
@[simp] theorem clearMeta_rgridValid (st : Status) : (clearMeta st).rgridValid = false := rfl
@[simp] theorem clearMeta_obufValid (st : Status) : (clearMeta st).obufValid = false := rfl
@[simp] theorem clearMeta_errSeen (st : Status) : (clearMeta st).errSeen = st.errSeen := rfl

@[simp] theorem clearPal_busy (st : Status) : (clearPal st).busy = st.busy := rfl
@[simp] theorem clearPal_ibufValid (st : Status) : (clearPal st).ibufValid = st.ibufValid := rfl
@[simp] theorem clearPal_metaValid (st : Status) : (clearPal st).metaValid = st.metaValid := rfl
@[simp] theorem clearPal_palValid (st : Status) : (clearPal st).palValid = false := rfl
@[simp] theorem clearPal_ogridValid (st : Status) : (clearPal st).ogridValid = false := rfl
@[simp] theorem clearPal_tgridValid (st : Status) : (clearPal st).tgridValid = false := rfl
@[simp] theorem clearPal_rgridValid (st : Status) : (clearPal st).rgridValid = false := rfl
@[simp] theorem clearPal_obufValid (st : Status) : (clearPal st).obufValid = false := rfl
@[simp] theorem clearPal_errSeen (st : Status) : (clearPal st).errSeen = st.errSeen := rfl

@[simp] theorem clearOgrid_busy (st : Status) : (clearOgrid st).busy = st.busy := rfl
@[simp] theorem clearOgrid_ibufValid (st : Status) : (clearOgrid st).ibufValid = st.ibufValid := rfl
@[simp] theorem clearOgrid_metaValid (st : Status) : (clearOgrid st).metaValid = st.metaValid := rfl
@[simp] theorem clearOgrid_palValid (st : Status) : (clearOgrid st).palValid = st.palValid := rfl
@[simp] theorem clearOgrid_ogridValid (st : Status) : (clearOgrid st).ogridValid = false := rfl
@[simp] theorem clearOgrid_tgridValid (st : Status) : (clearOgrid st).tgridValid = false := rfl
@[simp] theorem clearOgrid_rgridValid (st : Status) : (clearOgrid st).rgridValid = false := rfl
@[simp] theorem clearOgrid_obufValid (st : Status) : (clearOgrid st).obufValid = false := rfl
@[simp] theorem clearOgrid_errSeen (st : Status) : (clearOgrid st).errSeen = st.errSeen := rfl

@[simp] theorem clearTgrid_busy (st : Status) : (clearTgrid st).busy = st.busy := rfl
@[simp] theorem clearTgrid_ibufValid (st : Status) : (clearTgrid st).ibufValid = st.ibufValid := rfl
@[simp] theorem clearTgrid_metaValid (st : Status) : (clearTgrid st).metaValid = st.metaValid := rfl
@[simp] theorem clearTgrid_palValid (st : Status) : (clearTgrid st).palValid = st.palValid := rfl
@[simp] theorem clearTgrid_ogridValid (st : Status) : (clearTgrid st).ogridValid = st.ogridValid := rfl
@[simp] theorem clearTgrid_tgridValid (st : Status) : (clearTgrid st).tgridValid = false := rfl
@[simp] theorem clearTgrid_rgridValid (st : Status) : (clearTgrid st).rgridValid = false := rfl
@[simp] theorem clearTgrid_obufValid (st : Status) : (clearTgrid st).obufValid = false := rfl
@[simp] theorem clearTgrid_errSeen (st : Status) : (clearTgrid st).errSeen = st.errSeen := rfl

@[simp] theorem clearRgrid_busy (st : Status) : (clearRgrid st).busy = st.busy := rfl
@[simp] theorem clearRgrid_ibufValid (st : Status) : (clearRgrid st).ibufValid = st.ibufValid := rfl
@[simp] theorem clearRgrid_metaValid (st : Status) : (clearRgrid st).metaValid = st.metaValid := rfl
@[simp] theorem clearRgrid_palValid (st : Status) : (clearRgrid st).palValid = st.palValid := rfl
@[simp] theorem clearRgrid_ogridValid (st : Status) : (clearRgrid st).ogridValid = st.ogridValid := rfl
@[simp] theorem clearRgrid_tgridValid (st : Status) : (clearRgrid st).tgridValid = st.tgridValid := rfl
@[simp] theorem clearRgrid_rgridValid (st : Status) : (clearRgrid st).rgridValid = false := rfl
@[simp] theorem clearRgrid_obufValid (st : Status) : (clearRgrid st).obufValid = false := rfl
@[simp] theorem clearRgrid_errSeen (st : Status) : (clearRgrid st).errSeen = st.errSeen := rfl

@[simp] theorem clearObuf_busy (st : Status) : (clearObuf st).busy = st.busy := rfl
@[simp] theorem clearObuf_ibufValid (st : Status) : (clearObuf st).ibufValid = st.ibufValid := rfl
@[simp] theorem clearObuf_metaValid (st : Status) : (clearObuf st).metaValid = st.metaValid := rfl
@[simp] theorem clearObuf_palValid (st : Status) : (clearObuf st).palValid = st.palValid := rfl
@[simp] theorem clearObuf_ogridValid (st : Status) : (clearObuf st).ogridValid = st.ogridValid := rfl
@[simp] theorem clearObuf_tgridValid (st : Status) : (clearObuf st).tgridValid = st.tgridValid := rfl
@[simp] theorem clearObuf_rgridValid (st : Status) : (clearObuf st).rgridValid = st.rgridValid := rfl
@[simp] theorem clearObuf_obufValid (st : Status) : (clearObuf st).obufValid = false := rfl
@[simp] theorem clearObuf_errSeen (st : Status) : (clearObuf st).errSeen = st.errSeen := rfl

@[simp] theorem renew_cfg (s t : State) : (renew s t).cfg = t.cfg := rfl
@[simp] theorem renew_imeta (s t : State) : (renew s t).imeta = t.imeta := rfl
@[simp] theorem renew_ibufLen (s t : State) : (renew s t).ibufLen = t.ibufLen := rfl
@[simp] theorem renew_palLen (s t : State) : (renew s t).palLen = t.palLen := rfl
@[simp] theorem renew_ogW (s t : State) : (renew s t).ogW = t.ogW := rfl
@[simp] theorem renew_ogH (s t : State) : (renew s t).ogH = t.ogH := rfl
@[simp] theorem renew_tgW (s t : State) : (renew s t).tgW = t.tgW := rfl
@[simp] theorem renew_tgH (s t : State) : (renew s t).tgH = t.tgH := rfl
@[simp] theorem renew_rgW (s t : State) : (renew s t).rgW = t.rgW := rfl
@[simp] theorem renew_rgH (s t : State) : (renew s t).rgH = t.rgH := rfl
@[simp] theorem renew_obufLen (s t : State) : (renew s t).obufLen = t.obufLen := rfl
@[simp] theorem renew_status (s t : State) : (renew s t).status = t.status := rfl
@[simp] theorem renew_err (s t : State) : (renew s t).err = t.err := rfl
@[simp] theorem renew_errInfo (s t : State) : (renew s t).errInfo = t.errInfo := rfl
@[simp] theorem renew_ibuf (s t : State) : (renew s t).ibuf = t.ibuf := rfl
@[simp] theorem renew_pal (s t : State) : (renew s t).pal = t.pal := rfl
@[simp] theorem renew_ogrid (s t : State) : (renew s t).ogrid = t.ogrid := rfl
@[simp] theorem renew_tgrid (s t : State) : (renew s t).tgrid = t.tgrid := rfl
@[simp] theorem renew_rgrid (s t : State) : (renew s t).rgrid = t.rgrid := rfl
@[simp] theorem renew_obuf (s t : State) : (renew s t).obuf = t.obuf := rfl
@[simp] theorem renew_pending (s t : State) : (renew s t).pending = t.pending := rfl
@[simp] theorem renew_hostData (s t : State) : (renew s t).hostData = t.hostData := rfl
@[simp] theorem renew_freeCount (s t : State) : (renew s t).freeCount = t.freeCount := rfl
@[simp] theorem renew_gens (s t : State) : (renew s t).gens = nextGens s t := rfl

@[simp] theorem renewIbuf_cfg (s : State) : (renewIbuf s).cfg = s.cfg := rfl
@[simp] theorem renewIbuf_imeta (s : State) : (renewIbuf s).imeta = s.imeta := rfl
@[simp] theorem renewIbuf_ibufLen (s : State) : (renewIbuf s).ibufLen = s.ibufLen := rfl
@[simp] theorem renewIbuf_palLen (s : State) : (renewIbuf s).palLen = s.palLen := rfl
@[simp] theorem renewIbuf_ogW (s : State) : (renewIbuf s).ogW = s.ogW := rfl
@[simp] theorem renewIbuf_ogH (s : State) : (renewIbuf s).ogH = s.ogH := rfl
@[simp] theorem renewIbuf_tgW (s : State) : (renewIbuf s).tgW = s.tgW := rfl
@[simp] theorem renewIbuf_tgH (s : State) : (renewIbuf s).tgH = s.tgH := rfl
@[simp] theorem renewIbuf_rgW (s : State) : (renewIbuf s).rgW = s.rgW := rfl
@[simp] theorem renewIbuf_rgH (s : State) : (renewIbuf s).rgH = s.rgH := rfl
@[simp] theorem renewIbuf_obufLen (s : State) : (renewIbuf s).obufLen = s.obufLen := rfl
@[simp] theorem renewIbuf_status (s : State) : (renewIbuf s).status = s.status := rfl
@[simp] theorem renewIbuf_err (s : State) : (renewIbuf s).err = s.err := rfl
@[simp] theorem renewIbuf_errInfo (s : State) : (renewIbuf s).errInfo = s.errInfo := rfl
@[simp] theorem renewIbuf_ibuf (s : State) : (renewIbuf s).ibuf = s.ibuf := rfl
@[simp] theorem renewIbuf_pal (s : State) : (renewIbuf s).pal = s.pal := rfl
@[simp] theorem renewIbuf_ogrid (s : State) : (renewIbuf s).ogrid = s.ogrid := rfl
@[simp] theorem renewIbuf_tgrid (s : State) : (renewIbuf s).tgrid = s.tgrid := rfl
@[simp] theorem renewIbuf_rgrid (s : State) : (renewIbuf s).rgrid = s.rgrid := rfl
@[simp] theorem renewIbuf_obuf (s : State) : (renewIbuf s).obuf = s.obuf := rfl
@[simp] theorem renewIbuf_pending (s : State) : (renewIbuf s).pending = s.pending := rfl
@[simp] theorem renewIbuf_hostData (s : State) : (renewIbuf s).hostData = s.hostData := rfl
@[simp] theorem renewIbuf_freeCount (s : State) : (renewIbuf s).freeCount = s.freeCount := rfl
@[simp] theorem renewIbuf_gens (s : State) :
    (renewIbuf s).gens = { s.gens with ibuf := s.gens.ibuf + 1 } := rfl

end Sys2Proof.Machine
end

