-- ==== Sys2Proof/Laws/Memory.lean ====
section
/-! SUPPORT. The laws of memories: a read after a write, the canonical form kept by every operation, and what a slice
of a memory is. -/

namespace Sys2Proof.Machine

variable {α β ε : Type}

theorem read_write (m : Memory α) (a b : Nat) (v : α) :
    Memory.read (Memory.write m a v) b = if b = a then some v else Memory.read m b := by
  induction m with
  | nil => simp [Memory.write, Memory.read, eq_comm]
  | cons p rest ih =>
    obtain ⟨k, u⟩ := p
    by_cases hb : b = a
    · subst hb
      simp only [Memory.write]
      split
      · simp [Memory.read]
      · split
        · simp [Memory.read]
        · rename_i _ hk
          simp [Memory.read, ih, Ne.symm hk]
    · have hb' : ¬ a = b := fun h => hb h.symm
      simp only [Memory.write]
      split
      · simp [Memory.read, hb']
      · split
        · rename_i _ hk
          subst hk
          simp [Memory.read, hb']
        · simp [Memory.read, ih, hb]

/-- Addresses above a bound stay above it when one above it is written. -/
theorem write_keys_above (m : Memory α) (a : Nat) (v : α) (k : Nat) (hk : k < a) (h : ∀ p ∈ m, k < p.1) :
    ∀ p ∈ Memory.write m a v, k < p.1 := by
  induction m with
  | nil => intro p hp; simp [Memory.write] at hp; subst hp; exact hk
  | cons q rest ih =>
    obtain ⟨j, u⟩ := q
    intro p hp
    simp only [Memory.write] at hp
    split at hp
    · rcases List.mem_cons.1 hp with rfl | hp
      · exact hk
      · exact h p hp
    · split at hp
      · rcases List.mem_cons.1 hp with rfl | hp
        · exact hk
        · exact h p (List.mem_cons_of_mem _ hp)
      · rcases List.mem_cons.1 hp with rfl | hp
        · exact h (j, u) List.mem_cons_self
        · exact ih (fun p hp => h p (List.mem_cons_of_mem _ hp)) p hp

theorem wf_write {m : Memory α} (h : Memory.wf m) (a : Nat) (v : α) : Memory.wf (Memory.write m a v) := by
  induction m with
  | nil => simp [Memory.write, Memory.wf]
  | cons q rest ih =>
    obtain ⟨k, u⟩ := q
    obtain ⟨hq, hrest⟩ := List.pairwise_cons.1 h
    simp only [Memory.write]
    split
    · rename_i hlt
      refine List.pairwise_cons.2 ⟨?_, h⟩
      intro p hp
      rcases List.mem_cons.1 hp with rfl | hp
      · exact hlt
      · exact Nat.lt_trans hlt (hq p hp)
    · split
      · rename_i _ heq
        exact List.pairwise_cons.2 ⟨fun p hp => heq ▸ hq p hp, hrest⟩
      · exact List.pairwise_cons.2 ⟨write_keys_above rest a v k (by omega) hq, ih hrest⟩

theorem read_writeAll (items : List α) : ∀ (m : Memory α) (a b : Nat),
    Memory.read (Memory.writeAll m a items) b =
      if a ≤ b ∧ b < a + items.length then items[b - a]? else Memory.read m b := by
  induction items with
  | nil => intro m a b; simp [Memory.writeAll]
  | cons v rest ih =>
    intro m a b
    simp only [Memory.writeAll, ih, read_write, List.length_cons]
    by_cases hb : b = a
    · subst hb; simp
    · by_cases hab : a + 1 ≤ b ∧ b < a + 1 + rest.length
      · rw [if_pos hab, if_pos (by omega), show b - a = (b - (a + 1)) + 1 by omega, List.getElem?_cons_succ]
      · rw [if_neg hab, if_neg hb, if_neg (by omega)]

/-- What a write of a whole list from address 0 leaves: the list, then what was there. -/
theorem read_writeAll_zero (m : Memory α) (items : List α) (b : Nat) :
    Memory.read (Memory.writeAll m 0 items) b = if b < items.length then items[b]? else Memory.read m b := by
  simp [read_writeAll]

theorem wf_writeAll (items : List α) : ∀ {m : Memory α} (_ : Memory.wf m) (a : Nat),
    Memory.wf (Memory.writeAll m a items) := by
  induction items with
  | nil => intro m h a; exact h
  | cons v rest ih => intro m h a; exact ih (wf_write h a v) (a + 1)

/-- Two memories in canonical form with the same readings are equal. -/
theorem wf_ext : ∀ {m m' : Memory α} (_ : Memory.wf m) (_ : Memory.wf m')
    (_ : ∀ a, Memory.read m a = Memory.read m' a), m = m'
  | [], [], _, _, _ => rfl
  | [], (k, u) :: _, _, _, h => by have := h k; simp [Memory.read] at this
  | (k, u) :: _, [], _, _, h => by have := h k; simp [Memory.read] at this
  | (k, u) :: r, (k', u') :: r', hm, hm', h => by
    have below : ∀ {l : Memory α} {j : Nat}, (∀ p ∈ l, j < p.1) → ∀ a ≤ j, Memory.read l a = none := by
      intro l
      induction l with
      | nil => intros; rfl
      | cons q l ih =>
        intro j hj a ha
        have := hj q List.mem_cons_self
        simp only [Memory.read]
        rw [if_neg (by omega)]
        exact ih (fun p hp => hj p (List.mem_cons_of_mem _ hp)) a ha
    obtain ⟨hq, hr⟩ := List.pairwise_cons.1 hm
    obtain ⟨hq', hr'⟩ := List.pairwise_cons.1 hm'
    have hk : k = k' := by
      rcases Nat.lt_trichotomy k k' with hlt | heq | hlt
      · have := h k
        simp only [Memory.read, if_true] at this
        rw [if_neg (by omega), below hq' k (by exact Nat.le_of_lt hlt)] at this
        cases this
      · exact heq
      · have := h k'
        simp only [Memory.read, if_true] at this
        rw [if_neg (by omega), below hq k' (by exact Nat.le_of_lt hlt)] at this
        cases this
    subst hk
    have hu : u = u' := by have := h k; simpa [Memory.read] using this
    subst hu
    have : r = r' := wf_ext hr hr' (fun a => by
      have := h a
      simp only [Memory.read] at this
      by_cases ha : k = a
      · subst ha; rw [below hq k (Nat.le_refl _), below hq' k (Nat.le_refl _)]
      · simpa [ha] using this)
    rw [this]

/-- Writing a list of the same length again replaces the first one. -/
theorem writeAll_writeAll {m : Memory α} (h : Memory.wf m) (a : Nat) {l l' : List α} (hl : l.length = l'.length) :
    Memory.writeAll (Memory.writeAll m a l) a l' = Memory.writeAll m a l' := by
  refine wf_ext (wf_writeAll _ (wf_writeAll _ h _) _) (wf_writeAll _ h _) (fun b => ?_)
  simp only [read_writeAll, hl]
  split <;> rfl

theorem covers_writeAll (m : Memory α) (items : List α) {n : Nat} (hn : n = items.length) :
    Memory.covers (Memory.writeAll m 0 items) n := by
  intro a ha
  simp [read_writeAll_zero, hn ▸ ha]

/-! ### `collect` -/

@[simp] theorem collect_nil (f : α → Except ε β) : collect f [] = .ok [] := rfl

theorem collect_cons_ok {f : α → Except ε β} {x : α} {xs : List α} {ys : List β}
    (h : collect f (x :: xs) = .ok ys) : ∃ z zs, f x = .ok z ∧ collect f xs = .ok zs ∧ ys = z :: zs := by
  simp only [collect] at h
  split at h
  · cases h
  · rename_i z hz
    split at h
    · cases h
    · rename_i zs hzs
      cases h
      exact ⟨z, zs, hz, hzs, rfl⟩

/-- `collect` succeeds exactly with the list of the results, in order. -/
theorem collect_eq_ok_iff {f : α → Except ε β} {xs : List α} {ys : List β} :
    collect f xs = .ok ys ↔ xs.map f = ys.map Except.ok := by
  induction xs generalizing ys with
  | nil => cases ys <;> simp [collect]
  | cons x xs ih =>
    constructor
    · intro h
      obtain ⟨z, zs, hz, hzs, rfl⟩ := collect_cons_ok h
      simp [hz, ih.1 hzs]
    · intro h
      cases ys with
      | nil => simp at h
      | cons y ys =>
        simp only [List.map_cons, List.cons.injEq] at h
        simp [collect, h.1, ih.2 h.2]

theorem collect_length {f : α → Except ε β} {xs : List α} {ys : List β} (h : collect f xs = .ok ys) :
    ys.length = xs.length := by
  have := congrArg List.length (collect_eq_ok_iff.1 h)
  simpa using this.symm

theorem collect_congr {f g : α → Except ε β} {xs : List α} (h : ∀ x ∈ xs, f x = g x) :
    collect f xs = collect g xs := by
  induction xs with
  | nil => rfl
  | cons x xs ih =>
    simp only [collect, h x List.mem_cons_self, ih (fun y hy => h y (List.mem_cons_of_mem _ hy))]

/-- `collect` fails exactly with the first error: everything before it succeeds. -/
theorem collect_eq_error_iff {f : α → Except ε β} {xs : List α} {e : ε} :
    collect f xs = .error e ↔
      ∃ before x after, xs = before ++ x :: after ∧ (∀ y ∈ before, ∃ z, f y = .ok z) ∧ f x = .error e := by
  induction xs with
  | nil => simp [collect]
  | cons x xs ih =>
    cases hx : f x with
    | error e' =>
      simp only [collect, hx, Except.error.injEq]
      constructor
      · rintro rfl
        exact ⟨[], x, xs, rfl, by simp, hx⟩
      · rintro ⟨before, y, after, heq, hb, hy⟩
        cases before with
        | nil => simp at heq; obtain ⟨rfl, _⟩ := heq; simpa [hx] using hy
        | cons b bs =>
          simp at heq
          obtain ⟨z, hz⟩ := hb b List.mem_cons_self
          rw [← heq.1, hx] at hz; cases hz
    | ok z =>
      have : collect f (x :: xs) = .error e ↔ collect f xs = .error e := by
        simp only [collect, hx]
        cases collect f xs <;> simp
      rw [this, ih]
      constructor
      · rintro ⟨before, y, after, rfl, hb, hy⟩
        refine ⟨x :: before, y, after, rfl, ?_, hy⟩
        intro w hw
        rcases List.mem_cons.1 hw with rfl | hw
        · exact ⟨z, hx⟩
        · exact hb w hw
      · rintro ⟨before, y, after, heq, hb, hy⟩
        cases before with
        | nil => simp at heq; rw [← heq.1, hx] at hy; cases hy
        | cons b bs =>
          simp at heq
          exact ⟨bs, y, after, heq.2, fun w hw => hb w (List.mem_cons_of_mem _ hw), hy⟩

/-! ### Slices -/

/-- A slice succeeds exactly with the items at its addresses. -/
theorem slice_eq_ok_iff {m : Memory α} {n : Nat} {l : List α} :
    Memory.slice m n = .ok l ↔ l.length = n ∧ ∀ a < n, Memory.read m a = l[a]? := by
  rw [Memory.slice, collect_eq_ok_iff]
  constructor
  · intro h
    have hlen : l.length = n := by simpa using (congrArg List.length h).symm
    refine ⟨hlen, fun a ha => ?_⟩
    have := congrArg (·[a]?) h
    simp only [List.getElem?_map, List.getElem?_range ha, Option.map_some] at this
    rw [List.getElem?_eq_getElem (hlen ▸ ha)] at this ⊢
    cases hr : Memory.read m a <;> simp_all
  · rintro ⟨hlen, h⟩
    refine List.ext_getElem (by simp [hlen]) (fun i hi _ => ?_)
    have hi' : i < n := by simpa using hi
    simp only [List.getElem_map, List.getElem_range, h i hi', List.getElem?_eq_getElem (hlen ▸ hi')]

theorem slice_length {m : Memory α} {n : Nat} {l : List α} (h : Memory.slice m n = .ok l) : l.length = n :=
  (slice_eq_ok_iff.1 h).1

/-- A covered range can be read. -/
theorem slice_of_covers {m : Memory α} {n : Nat} (h : Memory.covers m n) : ∃ l, Memory.slice m n = .ok l := by
  refine ⟨(List.range n).pmap (fun a ha => (Memory.read m a).get (h a ha)) (by simp), ?_⟩
  rw [slice_eq_ok_iff]
  refine ⟨by simp, fun a ha => ?_⟩
  rw [List.getElem?_eq_getElem (by simpa using ha)]
  simp

theorem covers_of_slice {m : Memory α} {n : Nat} {l : List α} (h : Memory.slice m n = .ok l) :
    Memory.covers m n := by
  obtain ⟨hlen, hr⟩ := slice_eq_ok_iff.1 h
  intro a ha
  rw [hr a ha, List.getElem?_eq_getElem (hlen ▸ ha)]
  rfl

/-- The test of the contents in use says what it should. -/
theorem sameUpTo_iff [DecidableEq α] {m m' : Memory α} {n : Nat} :
    Memory.sameUpTo n m m' = true ↔ Memory.sameBelow n m m' := by
  simp only [Memory.sameUpTo, Memory.sameBelow, Bool.or_eq_true, decide_eq_true_eq, List.all_eq_true, List.mem_range]
  exact ⟨fun h a ha => h.elim (fun e => e ▸ rfl) (fun e => e a ha), .inr⟩

theorem slice_congr {m m' : Memory α} {n : Nat} (h : Memory.sameBelow n m m') :
    Memory.slice m n = Memory.slice m' n :=
  collect_congr (fun a ha => by rw [h a (by simpa using ha)])

/-- What was written from address 0 is what the slice of its length reads. -/
theorem slice_writeAll (m : Memory α) (l : List α) {n : Nat} (hn : n = l.length) :
    Memory.slice (Memory.writeAll m 0 l) n = .ok l := by
  subst hn
  rw [slice_eq_ok_iff]
  exact ⟨rfl, fun a ha => by rw [read_writeAll_zero, if_pos ha]⟩

end Sys2Proof.Machine
end

