-- ==== Sys2Proof/Laws/Commands.lean ====
section
/-! SUPPORT. What each command can do, once: an inversion lemma for the frame and for each of the six stages, and the
principle that lifts a property kept by the six stages to every instruction. -/

namespace Sys2Proof.Machine

/-! ### A reader looks only at its own memory and registers -/

@[simp] theorem fileOf_startWith (f : Status → Status) (s : State) :
    fileOf (startWith f s) = fileOf s := rfl
@[simp] theorem paletteOf_startWith (f : Status → Status) (s : State) :
    paletteOf (startWith f s) = paletteOf s := rfl
@[simp] theorem ogridOf_startWith (f : Status → Status) (s : State) :
    ogridOf (startWith f s) = ogridOf s := rfl
@[simp] theorem tgridOf_startWith (f : Status → Status) (s : State) :
    tgridOf (startWith f s) = tgridOf s := rfl
@[simp] theorem rgridOf_startWith (f : Status → Status) (s : State) :
    rgridOf (startWith f s) = rgridOf s := rfl
@[simp] theorem imageOf_startWith (f : Status → Status) (s : State) :
    imageOf (startWith f s) = imageOf s := rfl
@[simp] theorem paletteFor_startWith (d : Depth) (f : Status → Status) (s : State) :
    paletteFor d (startWith f s) = paletteFor d s := by cases d <;> rfl
@[simp] theorem fileOf_succeed (s : State) :
    fileOf (succeed s) = fileOf s := rfl
@[simp] theorem paletteOf_succeed (s : State) :
    paletteOf (succeed s) = paletteOf s := rfl
@[simp] theorem ogridOf_succeed (s : State) :
    ogridOf (succeed s) = ogridOf s := rfl
@[simp] theorem tgridOf_succeed (s : State) :
    tgridOf (succeed s) = tgridOf s := rfl
@[simp] theorem rgridOf_succeed (s : State) :
    rgridOf (succeed s) = rgridOf s := rfl
@[simp] theorem imageOf_succeed (s : State) :
    imageOf (succeed s) = imageOf s := rfl
@[simp] theorem paletteFor_succeed (d : Depth) (s : State) :
    paletteFor d (succeed s) = paletteFor d s := by cases d <;> rfl
@[simp] theorem fileOf_takeError (e : Raise) (k : BitVec 4) (s : State) :
    fileOf (takeError e k s) = fileOf s := rfl
@[simp] theorem paletteOf_takeError (e : Raise) (k : BitVec 4) (s : State) :
    paletteOf (takeError e k s) = paletteOf s := rfl
@[simp] theorem ogridOf_takeError (e : Raise) (k : BitVec 4) (s : State) :
    ogridOf (takeError e k s) = ogridOf s := rfl
@[simp] theorem tgridOf_takeError (e : Raise) (k : BitVec 4) (s : State) :
    tgridOf (takeError e k s) = tgridOf s := rfl
@[simp] theorem rgridOf_takeError (e : Raise) (k : BitVec 4) (s : State) :
    rgridOf (takeError e k s) = rgridOf s := rfl
@[simp] theorem imageOf_takeError (e : Raise) (k : BitVec 4) (s : State) :
    imageOf (takeError e k s) = imageOf s := rfl
@[simp] theorem paletteFor_takeError (d : Depth) (e : Raise) (k : BitVec 4) (s : State) :
    paletteFor d (takeError e k s) = paletteFor d s := by cases d <;> rfl
@[simp] theorem fileOf_storeMeta (m : Metadata) (s : State) :
    fileOf (storeMeta m s) = fileOf s := rfl
@[simp] theorem paletteOf_storeMeta (m : Metadata) (s : State) :
    paletteOf (storeMeta m s) = paletteOf s := rfl
@[simp] theorem ogridOf_storeMeta (m : Metadata) (s : State) :
    ogridOf (storeMeta m s) = ogridOf s := rfl
@[simp] theorem tgridOf_storeMeta (m : Metadata) (s : State) :
    tgridOf (storeMeta m s) = tgridOf s := rfl
@[simp] theorem rgridOf_storeMeta (m : Metadata) (s : State) :
    rgridOf (storeMeta m s) = rgridOf s := rfl
@[simp] theorem imageOf_storeMeta (m : Metadata) (s : State) :
    imageOf (storeMeta m s) = imageOf s := rfl
@[simp] theorem paletteFor_storeMeta (d : Depth) (m : Metadata) (s : State) :
    paletteFor d (storeMeta m s) = paletteFor d s := by cases d <;> rfl
@[simp] theorem fileOf_storePal (p : List RGB) (s : State) :
    fileOf (storePal p s) = fileOf s := rfl
@[simp] theorem ogridOf_storePal (p : List RGB) (s : State) :
    ogridOf (storePal p s) = ogridOf s := rfl
@[simp] theorem tgridOf_storePal (p : List RGB) (s : State) :
    tgridOf (storePal p s) = tgridOf s := rfl
@[simp] theorem rgridOf_storePal (p : List RGB) (s : State) :
    rgridOf (storePal p s) = rgridOf s := rfl
@[simp] theorem imageOf_storePal (p : List RGB) (s : State) :
    imageOf (storePal p s) = imageOf s := rfl
@[simp] theorem fileOf_storeOgrid (g : Grid) (s : State) :
    fileOf (storeOgrid g s) = fileOf s := rfl
@[simp] theorem paletteOf_storeOgrid (g : Grid) (s : State) :
    paletteOf (storeOgrid g s) = paletteOf s := rfl
@[simp] theorem tgridOf_storeOgrid (g : Grid) (s : State) :
    tgridOf (storeOgrid g s) = tgridOf s := rfl
@[simp] theorem rgridOf_storeOgrid (g : Grid) (s : State) :
    rgridOf (storeOgrid g s) = rgridOf s := rfl
@[simp] theorem imageOf_storeOgrid (g : Grid) (s : State) :
    imageOf (storeOgrid g s) = imageOf s := rfl
@[simp] theorem paletteFor_storeOgrid (d : Depth) (g : Grid) (s : State) :
    paletteFor d (storeOgrid g s) = paletteFor d s := by cases d <;> rfl
@[simp] theorem fileOf_storeTgrid (g : Grid) (s : State) :
    fileOf (storeTgrid g s) = fileOf s := rfl
@[simp] theorem paletteOf_storeTgrid (g : Grid) (s : State) :
    paletteOf (storeTgrid g s) = paletteOf s := rfl
@[simp] theorem ogridOf_storeTgrid (g : Grid) (s : State) :
    ogridOf (storeTgrid g s) = ogridOf s := rfl
@[simp] theorem rgridOf_storeTgrid (g : Grid) (s : State) :
    rgridOf (storeTgrid g s) = rgridOf s := rfl
@[simp] theorem imageOf_storeTgrid (g : Grid) (s : State) :
    imageOf (storeTgrid g s) = imageOf s := rfl
@[simp] theorem paletteFor_storeTgrid (d : Depth) (g : Grid) (s : State) :
    paletteFor d (storeTgrid g s) = paletteFor d s := by cases d <;> rfl
@[simp] theorem fileOf_storeRgrid (g : Grid) (s : State) :
    fileOf (storeRgrid g s) = fileOf s := rfl
@[simp] theorem paletteOf_storeRgrid (g : Grid) (s : State) :
    paletteOf (storeRgrid g s) = paletteOf s := rfl
@[simp] theorem ogridOf_storeRgrid (g : Grid) (s : State) :
    ogridOf (storeRgrid g s) = ogridOf s := rfl
@[simp] theorem tgridOf_storeRgrid (g : Grid) (s : State) :
    tgridOf (storeRgrid g s) = tgridOf s := rfl
@[simp] theorem imageOf_storeRgrid (g : Grid) (s : State) :
    imageOf (storeRgrid g s) = imageOf s := rfl
@[simp] theorem paletteFor_storeRgrid (d : Depth) (g : Grid) (s : State) :
    paletteFor d (storeRgrid g s) = paletteFor d s := by cases d <;> rfl
@[simp] theorem fileOf_storeObuf (l : List Byte) (s : State) :
    fileOf (storeObuf l s) = fileOf s := rfl
@[simp] theorem paletteOf_storeObuf (l : List Byte) (s : State) :
    paletteOf (storeObuf l s) = paletteOf s := rfl
@[simp] theorem ogridOf_storeObuf (l : List Byte) (s : State) :
    ogridOf (storeObuf l s) = ogridOf s := rfl
@[simp] theorem tgridOf_storeObuf (l : List Byte) (s : State) :
    tgridOf (storeObuf l s) = tgridOf s := rfl
@[simp] theorem rgridOf_storeObuf (l : List Byte) (s : State) :
    rgridOf (storeObuf l s) = rgridOf s := rfl
@[simp] theorem paletteFor_storeObuf (d : Depth) (l : List Byte) (s : State) :
    paletteFor d (storeObuf l s) = paletteFor d s := by cases d <;> rfl
@[simp] theorem paletteOf_loadFile (l : List Byte) (s : State) :
    paletteOf (loadFile l s) = paletteOf s := rfl
@[simp] theorem ogridOf_loadFile (l : List Byte) (s : State) :
    ogridOf (loadFile l s) = ogridOf s := rfl
@[simp] theorem tgridOf_loadFile (l : List Byte) (s : State) :
    tgridOf (loadFile l s) = tgridOf s := rfl
@[simp] theorem rgridOf_loadFile (l : List Byte) (s : State) :
    rgridOf (loadFile l s) = rgridOf s := rfl
@[simp] theorem imageOf_loadFile (l : List Byte) (s : State) :
    imageOf (loadFile l s) = imageOf s := rfl
@[simp] theorem paletteFor_loadFile (d : Depth) (l : List Byte) (s : State) :
    paletteFor d (loadFile l s) = paletteFor d s := by cases d <;> rfl

/-! ### The frame -/

/-- All a framed command can answer as a next state (R98). -/
theorem frame_next_iff {missing : Option Nat} {start : State → State} {k : BitVec 4} {work : State → StageEnd}
    {s t : State} :
    frame missing start k work s = .next t ↔
      (∃ bit, missing = some bit ∧ t = takeError ⟨.inputNotValid, bit⟩ 0 s) ∨
      (missing = none ∧
        ((∃ u, work (start s) = .done u ∧ t = succeed u) ∨
         (∃ e, work (start s) = .raised e ∧ t = takeError e k (start s)))) := by
  cases missing with
  | some bit => simp [frame, eq_comm]
  | none =>
    simp only [frame]
    cases work (start s) <;> simp [eq_comm]

/-- A framed command faults only where its stage does, and is never refused. -/
theorem frame_fault_iff {missing : Option Nat} {start : State → State} {k : BitVec 4} {work : State → StageEnd}
    {s : State} {f : Fault} :
    frame missing start k work s = .fault f ↔ missing = none ∧ work (start s) = .stuck f := by
  cases missing with
  | some bit => simp [frame]
  | none => simp only [frame]; cases work (start s) <;> simp

theorem frame_not_refused {missing : Option Nat} {start : State → State} {k : BitVec 4} {work : State → StageEnd}
    {s : State} {r : Refusal} : frame missing start k work s ≠ .refused r := by
  cases missing with
  | some bit => simp [frame]
  | none => simp only [frame]; cases work (start s) <;> simp

theorem runStage_done_iff {α β : Type} {input : Except Fault α} {f : α → Except Raise β}
    {store : β → State → State} {s u : State} :
    runStage input f store s = .done u ↔ ∃ x y, input = .ok x ∧ f x = .ok y ∧ u = store y s := by
  cases input with
  | error e => simp [runStage]
  | ok x => simp only [runStage]; cases h : f x <;> simp [h, eq_comm]

theorem runStage_raised_iff {α β : Type} {input : Except Fault α} {f : α → Except Raise β}
    {store : β → State → State} {s : State} {e : Raise} :
    runStage input f store s = .raised e ↔ ∃ x, input = .ok x ∧ f x = .error e := by
  cases input with
  | error e => simp [runStage]
  | ok x => simp only [runStage]; cases h : f x <;> simp [h]

theorem runStage_stuck_iff {α β : Type} {input : Except Fault α} {f : α → Except Raise β}
    {store : β → State → State} {s : State} {e : Fault} :
    runStage input f store s = .stuck e ↔ input = .error e := by
  cases input with
  | error e => simp [runStage]
  | ok x => simp only [runStage]; cases h : f x <;> simp

theorem andThen_next_iff {r : Result} {k : State → Result} {t : State} :
    andThen r k = .next t ↔ ∃ u, r = .next u ∧ k u = .next t := by
  cases r <;> simp [andThen]

/-! ### Input flags -/

theorem missingHparse_none {st : Status} : missingHparse st = none ↔ st.ibufValid = true := by
  simp [missingHparse]

theorem missingPalrd_none {st : Status} :
    missingPalrd st = none ↔ st.ibufValid = true ∧ st.metaValid = true := by
  simp only [missingPalrd]; cases st.ibufValid <;> cases st.metaValid <;> simp

theorem missingPxdec_none {st : Status} {m : Metadata} :
    missingPxdec st m = none ↔
      st.ibufValid = true ∧ st.metaValid = true ∧ (indexed m = true → st.palValid = true) := by
  simp only [missingPxdec]
  cases st.ibufValid <;> cases st.metaValid <;> cases st.palValid <;> cases indexed m <;> simp

theorem missingXform_none {st : Status} : missingXform st = none ↔ st.ogridValid = true := by
  simp [missingXform]

theorem missingResize_none {st : Status} : missingResize st = none ↔ st.tgridValid = true := by
  simp [missingResize]

theorem missingPpmenc_none {st : Status} : missingPpmenc st = none ↔ st.rgridValid = true := by
  simp [missingPpmenc]

/-! ### What each stage can answer -/

/-- All `HPARSE` can answer (R131). -/
theorem hparse_cases {s t : State} (h : hparseCommand s = .next t) :
    (∃ bit, missingHparse s.status = some bit ∧ t = takeError ⟨.inputNotValid, bit⟩ 0 s) ∨
    (s.status.ibufValid = true ∧ ∃ buf, fileOf s = .ok buf ∧
      ((∃ m, parseHeader buf = .ok m ∧ t = succeed (storeMeta m (startWith clearMeta s))) ∨
       (∃ e, parseHeader buf = .error e ∧ t = takeError e 1 (startWith clearMeta s)))) := by
  rcases frame_next_iff.1 h with h | ⟨hm, ⟨u, hu, rfl⟩ | ⟨e, he, rfl⟩⟩
  · exact .inl h
  · obtain ⟨x, y, hx, hy, rfl⟩ := runStage_done_iff.1 hu
    exact .inr ⟨missingHparse_none.1 hm, x, hx, .inl ⟨y, hy, rfl⟩⟩
  · obtain ⟨x, hx, hy⟩ := runStage_raised_iff.1 he
    exact .inr ⟨missingHparse_none.1 hm, x, hx, .inr ⟨e, hy, rfl⟩⟩

/-- All `PALRD` can answer (R151, R156). -/
theorem palrd_cases {s t : State} (h : palrdCommand s = .next t) :
    (∃ bit, missingPalrd s.status = some bit ∧ t = takeError ⟨.inputNotValid, bit⟩ 0 s) ∨
    (s.status.ibufValid = true ∧ s.status.metaValid = true ∧
      ((depthOf s.imeta.bpp = some .d24 ∧ t = succeed s) ∨
       (indexed s.imeta = true ∧ ∃ buf, fileOf s = .ok buf ∧
        ((∃ p, readPalette s.cfg.palCap s.imeta buf = .ok p ∧ t = succeed (storePal p (startWith clearPal s))) ∨
         (∃ e, readPalette s.cfg.palCap s.imeta buf = .error e ∧ t = takeError e 2 (startWith clearPal s)))))) := by
  have hi : ∀ d, depthOf s.imeta.bpp = some d → d ≠ .d24 → indexed s.imeta = true := by
    intro d hd hne
    simp only [depthOf] at hd
    split at hd
    · cases hd; exact absurd rfl hne
    · split at hd
      · rename_i hb; simp [indexed, hb]
      · split at hd
        · rename_i hb; simp [indexed, hb]
        · split at hd
          · rename_i hb; simp [indexed, hb]
          · cases hd
  have h24 : depthOf s.imeta.bpp = some .d24 → palrdStart s = s := by
    intro hd
    have : indexed s.imeta = false := by
      simp only [depthOf] at hd
      split at hd
      · rename_i hb; simp [indexed, hb]
      · repeat (split at hd; · cases hd)
        cases hd
    simp [palrdStart, this]
  rcases frame_next_iff.1 h with h | ⟨hm, hw⟩
  · exact .inl h
  obtain ⟨hib, hme⟩ := missingPalrd_none.1 hm
  refine .inr ⟨hib, hme, ?_⟩
  have hmeta : (palrdStart s).imeta = s.imeta := by simp only [palrdStart]; split <;> rfl
  cases hd : depthOf s.imeta.bpp with
  | none => simp [palrdWork, hmeta, hd] at hw
  | some d =>
    by_cases hd24 : d = .d24
    · subst hd24
      left
      refine ⟨rfl, ?_⟩
      rw [h24 hd] at hw
      simp only [palrdWork, hd] at hw
      rcases hw with ⟨u, hu, rfl⟩ | ⟨e, he, _⟩
      · cases hu; rfl
      · cases he
    · right
      have hx := hi d hd hd24
      refine ⟨hx, ?_⟩
      have hst : palrdStart s = startWith clearPal s := by simp [palrdStart, hx]
      have hwk : palrdWork (startWith clearPal s) = runStage (fileOf s) (readPalette s.cfg.palCap s.imeta) storePal
          (startWith clearPal s) := by
        simp only [palrdWork, startWith_imeta, hd]
        cases d <;> first | exact absurd rfl hd24 | rfl
      rw [hst, hwk] at hw
      rcases hw with ⟨u, hu, rfl⟩ | ⟨e, he, rfl⟩
      · obtain ⟨x, y, hx, hy, rfl⟩ := runStage_done_iff.1 hu
        exact ⟨x, hx, .inl ⟨y, hy, rfl⟩⟩
      · obtain ⟨x, hx, hy⟩ := runStage_raised_iff.1 he
        exact ⟨x, hx, .inr ⟨e, hy, rfl⟩⟩

/-- All `PXDEC` can answer (R166, R170). -/
theorem pxdec_cases {s t : State} (h : pxdecCommand s = .next t) :
    (∃ bit, missingPxdec s.status s.imeta = some bit ∧ t = takeError ⟨.inputNotValid, bit⟩ 0 s) ∨
    (s.status.ibufValid = true ∧ s.status.metaValid = true ∧ (indexed s.imeta = true → s.status.palValid = true) ∧
      ∃ d pal buf, depthOf s.imeta.bpp = some d ∧ paletteFor d s = .ok pal ∧ fileOf s = .ok buf ∧
        ((∃ g, decodePixels s.cfg.gridCap d s.imeta pal buf = .ok g ∧
            t = succeed (storeOgrid g (startWith clearOgrid s))) ∨
         (∃ e, decodePixels s.cfg.gridCap d s.imeta pal buf = .error e ∧
            t = takeError e 3 (startWith clearOgrid s)))) := by
  rcases frame_next_iff.1 h with h | ⟨hm, hw⟩
  · exact .inl h
  obtain ⟨hib, hme, hpa⟩ := missingPxdec_none.1 hm
  refine .inr ⟨hib, hme, hpa, ?_⟩
  simp only [pxdecWork, startWith_imeta] at hw
  cases hd : depthOf s.imeta.bpp with
  | none => simp [hd] at hw
  | some d =>
    simp only [hd, pxdecAt, paletteFor_startWith] at hw
    cases hp : paletteFor d s with
    | error f => simp [hp] at hw
    | ok pal =>
      simp only [hp, fileOf_startWith, startWith_cfg, startWith_imeta] at hw
      rcases hw with ⟨u, hu, rfl⟩ | ⟨e, he, rfl⟩
      · obtain ⟨x, y, hx, hy, rfl⟩ := runStage_done_iff.1 hu
        exact ⟨d, pal, x, rfl, hp, hx, .inl ⟨y, hy, rfl⟩⟩
      · obtain ⟨x, hx, hy⟩ := runStage_raised_iff.1 he
        exact ⟨d, pal, x, rfl, hp, hx, .inr ⟨e, hy, rfl⟩⟩

/-- All `XFORM` can answer (R201). -/
theorem xform_cases {bright : Int} {er eg eb : Bool} {s t : State} (h : xformCommand bright er eg eb s = .next t) :
    (∃ bit, missingXform s.status = some bit ∧ t = takeError ⟨.inputNotValid, bit⟩ 0 s) ∨
    (s.status.ogridValid = true ∧ ∃ g, ogridOf s = .ok g ∧
      t = succeed (storeTgrid (transform s.cfg.numerics bright er eg eb g) (startWith clearTgrid s))) := by
  rcases frame_next_iff.1 h with h | ⟨hm, ⟨u, hu, rfl⟩ | ⟨e, he, rfl⟩⟩
  · exact .inl h
  · obtain ⟨x, y, hx, hy, rfl⟩ := runStage_done_iff.1 hu
    cases hy
    exact .inr ⟨missingXform_none.1 hm, x, hx, rfl⟩
  · obtain ⟨x, _, hy⟩ := runStage_raised_iff.1 he
    cases hy

/-- All `RESIZE` can answer (R221). -/
theorem resize_cases {percent : Int} {s t : State} (h : resizeCommand percent s = .next t) :
    (∃ bit, missingResize s.status = some bit ∧ t = takeError ⟨.inputNotValid, bit⟩ 0 s) ∨
    (s.status.tgridValid = true ∧
      ((percent ≤ 0 ∧ t = succeed (storeRgrid ⟨1, 1, [RGB.black]⟩ (startWith clearRgrid s))) ∨
       (0 < percent ∧ ∃ g, tgridOf s = .ok g ∧
        ((∃ r, resize s.cfg.gridCap percent g = .ok r ∧ t = succeed (storeRgrid r (startWith clearRgrid s))) ∨
         (∃ e, resize s.cfg.gridCap percent g = .error e ∧ t = takeError e 5 (startWith clearRgrid s)))))) := by
  rcases frame_next_iff.1 h with h | ⟨hm, hw⟩
  · exact .inl h
  refine .inr ⟨missingResize_none.1 hm, ?_⟩
  simp only [resizeWork] at hw
  split at hw
  · rename_i hp
    left
    rcases hw with ⟨u, hu, rfl⟩ | ⟨e, he, _⟩
    · cases hu; exact ⟨hp, rfl⟩
    · cases he
  · right
    refine ⟨by omega, ?_⟩
    rcases hw with ⟨u, hu, rfl⟩ | ⟨e, he, rfl⟩
    · obtain ⟨x, y, hx, hy, rfl⟩ := runStage_done_iff.1 hu
      exact ⟨x, hx, .inl ⟨y, hy, rfl⟩⟩
    · obtain ⟨x, hx, hy⟩ := runStage_raised_iff.1 he
      exact ⟨x, hx, .inr ⟨e, hy, rfl⟩⟩

/-- All `PPMENC` can answer (R241). -/
theorem ppmenc_cases {s t : State} (h : ppmencCommand s = .next t) :
    (∃ bit, missingPpmenc s.status = some bit ∧ t = takeError ⟨.inputNotValid, bit⟩ 0 s) ∨
    (s.status.rgridValid = true ∧ ∃ g, rgridOf s = .ok g ∧
      ((∃ l, encodePpm s.cfg.obufCap g = .ok l ∧ t = succeed (storeObuf l (startWith clearObuf s))) ∨
       (∃ e, encodePpm s.cfg.obufCap g = .error e ∧ t = takeError e 6 (startWith clearObuf s)))) := by
  rcases frame_next_iff.1 h with h | ⟨hm, ⟨u, hu, rfl⟩ | ⟨e, he, rfl⟩⟩
  · exact .inl h
  · obtain ⟨x, y, hx, hy, rfl⟩ := runStage_done_iff.1 hu
    exact .inr ⟨missingPpmenc_none.1 hm, x, hx, .inl ⟨y, hy, rfl⟩⟩
  · obtain ⟨x, hx, hy⟩ := runStage_raised_iff.1 he
    exact .inr ⟨missingPpmenc_none.1 hm, x, hx, .inr ⟨e, hy, rfl⟩⟩

/-! ### Every instruction is made of the six stages -/

theorem unlessError_next {k : State → Result} {s t : State} (h : unlessError k s = .next t) :
    (s.err.code = 0 ∧ k s = .next t) ∨ (s.err.code ≠ 0 ∧ t = s) := by
  simp only [unlessError] at h
  split at h
  · rename_i hc; exact .inl ⟨hc, h⟩
  · rename_i hc; cases h; exact .inr ⟨hc, rfl⟩

/-- A relation that is transitive and holds across each of the six stages holds across every instruction
(R122, R186). The operands are kept in the premises, so that a property of command words (`Instr.wf`) can be
used. -/
theorem exec_relation {R : State → State → Prop}
    (trans : ∀ {a b c}, R a b → R b c → R a c)
    (hparse : ∀ {s t}, hparseCommand s = .next t → R s t)
    (palrd : ∀ {s t}, palrdCommand s = .next t → R s t)
    (pxdec : ∀ {s t}, pxdecCommand s = .next t → R s t)
    (xform : ∀ {b er eg eb s t}, fitsField b = true → xformCommand b er eg eb s = .next t → R s t)
    (resize : ∀ {p s t}, fitsField p = true → resizeCommand p s = .next t → R s t)
    (ppmenc : ∀ {s t}, ppmencCommand s = .next t → R s t)
    {i : Instr} (hi : i.wf = true) {s t : State} (h : exec i s = .next t) : R s t := by
  cases i with
  | hparse => exact hparse h
  | palrd => exact palrd h
  | pxdec => exact pxdec h
  | pxdec24 => exact pxdec h
  | pxdec8 => exact pxdec h
  | pxdec4 => exact pxdec h
  | pxdec1 => exact pxdec h
  | xform b er eg eb => exact xform hi h
  | resize p => exact resize hi h
  | ppmenc => exact ppmenc h
  | xformId => exact xform (by decide) h
  | render b er eg eb p =>
    simp only [Instr.wf, Bool.and_eq_true] at hi
    obtain ⟨u, hu, h⟩ := andThen_next_iff.1 h
    obtain ⟨v, hv, h⟩ := andThen_next_iff.1 h
    exact trans (xform hi.1 hu) (trans (resize hi.2 hv) (ppmenc h))
  | decode =>
    obtain ⟨u, hu, h⟩ := andThen_next_iff.1 h
    rcases unlessError_next h with ⟨_, h⟩ | ⟨_, rfl⟩
    · split at h
      · obtain ⟨v, hv, h⟩ := andThen_next_iff.1 h
        rcases unlessError_next h with ⟨_, h⟩ | ⟨_, rfl⟩
        · exact trans (hparse hu) (trans (palrd hv) (pxdec h))
        · exact trans (hparse hu) (palrd hv)
      · exact trans (hparse hu) (pxdec h)
    · exact hparse hu

/-- A property kept by each of the six stages is kept by every instruction. -/
theorem exec_keeps {P : State → Prop}
    (hparse : ∀ {s t}, P s → hparseCommand s = .next t → P t)
    (palrd : ∀ {s t}, P s → palrdCommand s = .next t → P t)
    (pxdec : ∀ {s t}, P s → pxdecCommand s = .next t → P t)
    (xform : ∀ {b er eg eb s t}, fitsField b = true → P s → xformCommand b er eg eb s = .next t → P t)
    (resize : ∀ {p s t}, fitsField p = true → P s → resizeCommand p s = .next t → P t)
    (ppmenc : ∀ {s t}, P s → ppmencCommand s = .next t → P t)
    {i : Instr} (hi : i.wf = true) {s t : State} (hs : P s) (h : exec i s = .next t) : P t :=
  exec_relation (R := fun a b => P a → P b) (fun f g x => g (f x)) (fun h p => hparse p h) (fun h p => palrd p h)
    (fun h p => pxdec p h) (fun w h p => xform w p h) (fun w h p => resize w p h) (fun h p => ppmenc p h) hi h hs

end Sys2Proof.Machine
end

