-- ==== Sys2Proof/Laws/PerInstr.lean ====
section
/-! SUPPORT. Statements about every instruction as syntax, one lemma a constructor. The family `AssignedOpcode`: every
word of an instruction carries an opcode of the map of R95, so none is illegal by its opcode (R96). -/

namespace Sys2Proof.Laws.AssignedOpcode

/-- Every word of the instruction has an opcode from 1 to 7 (R95). -/
def Statement (i : Instr) : Prop := ∀ w ∈ encode i, 1 ≤ (opcField w).toNat ∧ (opcField w).toNat ≤ 7

/-- The upper field of two fields put together (R13, R90). -/
theorem extract_top {n m : Nat} (hi : BitVec n) (lo : BitVec m) : (hi ++ lo).extractLsb' m n = hi := by
  apply BitVec.eq_of_getLsbD_eq
  intro k hk
  rw [BitVec.getLsbD_extractLsb', BitVec.getLsbD_append]
  simp [hk]

/-- A field of the upper part of two parts put together. -/
theorem extract_upper {n m : Nat} (hi : BitVec n) (lo : BitVec m) (a len : Nat) :
    (hi ++ lo).extractLsb' (m + a) len = hi.extractLsb' a len := by
  apply BitVec.eq_of_getLsbD_eq
  intro k hk
  rw [BitVec.getLsbD_extractLsb', BitVec.getLsbD_append, BitVec.getLsbD_extractLsb']
  have h1 : ¬m + a + k < m := by omega
  have h2 : m + a + k - m = a + k := by omega
  simp only [h1, h2, if_false]

theorem opcField_encodeN (opc : BitVec 8) : opcField (encodeN opc) = opc := extract_top opc (0 : BitVec 24)

theorem opcField_encodeX (bright : Int) (er eg eb : Bool) : opcField (encodeX bright er eg eb) = 0x04#8 :=
  (extract_upper (0x04#8 ++ (0 : BitVec 5) ++ BitVec.ofBool er ++ BitVec.ofBool eg ++ BitVec.ofBool eb)
    (immBits bright) 8 8).trans <| by
  cases er <;> cases eg <;> cases eb <;> decide

theorem opcField_encodeS (percent : Int) : opcField (encodeS percent) = 0x05#8 :=
  (extract_upper (0x05#8 ++ (0 : BitVec 8)) (immBits percent) 8 8).trans (by decide)

theorem hparse : Statement .hparse := by simp [Statement, encode, opcField_encodeN]

theorem palrd : Statement .palrd := by simp [Statement, encode, opcField_encodeN]

theorem pxdec : Statement .pxdec := by simp [Statement, encode, opcField_encodeN]

theorem pxdec24 : Statement .pxdec24 := by simp [Statement, encode, opcField_encodeN]

theorem pxdec8 : Statement .pxdec8 := by simp [Statement, encode, opcField_encodeN]

theorem pxdec4 : Statement .pxdec4 := by simp [Statement, encode, opcField_encodeN]

theorem pxdec1 : Statement .pxdec1 := by simp [Statement, encode, opcField_encodeN]

theorem xform (bright : Int) (er eg eb : Bool) : Statement (.xform bright er eg eb) := by
  simp [Statement, encode, opcField_encodeX]

theorem resize (percent : Int) : Statement (.resize percent) := by simp [Statement, encode, opcField_encodeS]

theorem ppmenc : Statement .ppmenc := by simp [Statement, encode, opcField_encodeN]

theorem decode : Statement .decode := by simp [Statement, encode, opcField_encodeN]

theorem xformId : Statement .xformId := by simp [Statement, encode, opcField_encodeX]

theorem render (bright : Int) (er eg eb : Bool) (percent : Int) : Statement (.render bright er eg eb percent) := by
  simp [Statement, encode, opcField_encodeX, opcField_encodeS, opcField_encodeN]

end Sys2Proof.Laws.AssignedOpcode
end

