-- ==== Sys2Proof/Laws/Units.lean ====
section
/-! SUPPORT. What the pure functions of the six units give where they succeed (R18): the shapes of their results and
the bounds of the values they read. -/

namespace Sys2Proof.Machine

/-! ### Numbers -/

theorem memRead_lt (buf : List Byte) (n : Nat) : ∀ a, memRead buf a n < 256 ^ n := by
  induction n with
  | zero => intro a; simp [memRead]
  | succ n ih =>
    intro a
    have h1 := ih (a + 1)
    have h2 := (byteAt buf a).isLt
    simp only [memRead, Nat.pow_succ]
    omega

theorem memRead_congr {buf buf' : List Byte} (n : Nat) :
    ∀ {a : Nat}, (∀ k, a ≤ k → k < a + n → byteAt buf k = byteAt buf' k) → memRead buf a n = memRead buf' a n := by
  induction n with
  | zero => intro a _; rfl
  | succ n ih =>
    intro a h
    simp only [memRead]
    rw [h a (Nat.le_refl _) (by omega), ih (fun k hk hk' => h k (by omega) (by omega))]

theorem sext32_bounds {v : Nat} (h : v < 2 ^ 32) : -2 ^ 31 ≤ sext32 v ∧ sext32 v < 2 ^ 31 := by
  simp only [sext32]; split <;> omega

theorem sext32_toInt (w : Word) : sext32 w.toNat = w.toInt := by
  simp only [sext32, BitVec.toInt_eq_toNat_cond]
  split <;> split <;> omega

theorem toInt_ofInt_sext32 {v : Nat} (h : v < 2 ^ 32) : (BitVec.ofInt 32 (sext32 v)).toInt = sext32 v := by
  have hb := sext32_bounds h
  rw [BitVec.toInt_ofInt]
  apply Int.bmod_eq_of_le <;> omega

/-! ### Capacities -/

@[simp] theorem fits_inf (n : Nat) : fits .inf n = true := rfl

theorem fits_mono {c : Capacity} {m n : Nat} (h : m ≤ n) (hn : fits c n = true) : fits c m = true := by
  cases c with
  | inf => rfl
  | atMost k => simp only [fits, decide_eq_true_eq] at *; omega

/-! ### Depths -/

/-- The four admitted values of `META.BPP` and the depths they select (R170). -/
theorem depthOf_cases {b : BitVec 16} {d : Depth} (h : depthOf b = some d) :
    (b = 24#16 ∧ d = .d24) ∨ (b = 8#16 ∧ d = .d8) ∨ (b = 4#16 ∧ d = .d4) ∨ (b = 1#16 ∧ d = .d1) := by
  simp only [depthOf] at h
  split at h
  · cases h; simp [*]
  · split at h
    · cases h; simp [*]
    · split at h
      · cases h; simp [*]
      · split at h
        · cases h; simp [*]
        · cases h

theorem indexed_iff {m : Metadata} {d : Depth} (h : depthOf m.bpp = some d) : indexed m = true ↔ d ≠ .d24 := by
  rcases depthOf_cases h with ⟨hb, rfl⟩ | ⟨hb, rfl⟩ | ⟨hb, rfl⟩ | ⟨hb, rfl⟩ <;> simp [indexed, hb]

theorem MetaOk.depth_some {m : Metadata} (h : MetaOk m) : ∃ d, depthOf m.bpp = some d := by
  have hb : m.bpp = BitVec.ofNat 16 m.bpp.toNat := by simp
  have hd := h.depth
  simp only [List.mem_cons, List.not_mem_nil, or_false] at hd
  rw [hb]
  rcases hd with hd | hd | hd | hd <;> rw [hd]
  · exact ⟨.d1, rfl⟩
  · exact ⟨.d4, rfl⟩
  · exact ⟨.d8, rfl⟩
  · exact ⟨.d24, rfl⟩

/-! ### HeaderParser -/

/-- A header is accepted exactly when it passes the five checks (R132, R141). -/
theorem parseHeader_ok_iff {buf : List Byte} {m : Metadata} :
    parseHeader buf = .ok m ↔
      54 ≤ buf.length ∧ (byteAt buf 0 = 0x42#8 ∧ byteAt buf 1 = 0x4D#8) ∧ memRead buf 30 4 = 0 ∧
      memRead buf 28 2 ∈ [1, 4, 8, 24] ∧ 0 < sext32 (memRead buf 18 4) ∧ sext32 (memRead buf 22 4) ≠ 0 ∧
      m = headerFields buf := by
  simp only [parseHeader]
  split
  · simp; omega
  · split
    · rename_i _ h; simp; intro _ h0 h1; simp_all
    · split
      · rename_i h; simp [h]
      · split
        · rename_i h; simp; intro _ _ _ _ h'; simp_all
        · split
          · rename_i h; simp; intro _ _ _ _ _ h1 h2; omega
          · rename_i h1 h2 h3 h4 h5
            simp only [Except.ok.injEq, eq_comm]
            constructor
            · rintro rfl; exact ⟨by omega, by simp_all, by omega, not_not.1 h4, by omega, fun hz => h5 (.inr hz), rfl⟩
            · rintro ⟨-, -, -, -, -, -, rfl⟩; rfl

theorem headerFields_metaOk {buf : List Byte} (hc : memRead buf 30 4 = 0)
    (hb : memRead buf 28 2 ∈ [1, 4, 8, 24]) (hw : 0 < sext32 (memRead buf 18 4))
    (hh : sext32 (memRead buf 22 4) ≠ 0) : MetaOk (headerFields buf) := by
  have b18 := memRead_lt buf 4 18
  have b22 := sext32_bounds (v := memRead buf 22 4) (memRead_lt buf 4 22)
  have b46 := memRead_lt buf 4 46
  have hbpp : (headerFields buf).bpp.toNat = memRead buf 28 2 := by
    simp only [headerFields, BitVec.toNat_ofNat]
    exact Nat.mod_eq_of_lt (memRead_lt buf 2 28)
  have hheight : (headerFields buf).height.toNat = (sext32 (memRead buf 22 4)).natAbs := by
    simp only [headerFields, BitVec.toNat_ofNat]
    exact Nat.mod_eq_of_lt (by omega)
  refine ⟨hbpp ▸ hb, by simp [headerFields, hc], ?_, by omega, by omega, ?_⟩
  · simp only [headerFields]
    rw [toInt_ofInt_sext32 b18]
    omega
  · intro hi
    have hle : memRead buf 28 2 ≤ 8 := by simpa [indexed, hbpp] using hi
    simp only [headerFields, BitVec.toNat_ofNat, palcountOf]
    simp only [List.mem_cons, List.not_mem_nil, or_false] at hb
    by_cases h0 : memRead buf 46 4 = 0
    · rw [if_pos ⟨hle, h0⟩]
      rcases hb with hb | hb | hb | hb <;> rw [hb] <;> simp
    · rw [if_neg (fun h => h0 h.2)]
      rw [Nat.mod_eq_of_lt (by simpa using b46)]
      omega

theorem parseHeader_metaOk {buf : List Byte} {m : Metadata} (h : parseHeader buf = .ok m) : MetaOk m := by
  obtain ⟨_, _, hc, hb, hw, hh, rfl⟩ := parseHeader_ok_iff.1 h
  exact headerFields_metaOk hc hb hw hh

theorem parseHeader_error {buf : List Byte} {e : Raise} (h : parseHeader buf = .error e) :
    e.kind = .invalidFormat ∨ e.kind = .unsupportedFeature ∨ e.kind = .unsupportedDepth := by
  simp only [parseHeader] at h
  repeat (split at h; · cases h; simp)
  cases h

/-! ### PaletteReader -/

theorem readPalette_ok {cap : Capacity} {m : Metadata} {buf : List Byte} {p : List RGB}
    (h : readPalette cap m buf = .ok p) :
    p = (List.range m.palcount.toNat).map (fun i => bgrAt buf (paletteBase m + 4 * i)) ∧
      p.length = m.palcount.toNat ∧ fits cap m.palcount.toNat = true ∧
      paletteBase m + 4 * m.palcount.toNat ≤ buf.length := by
  simp only [readPalette] at h
  split at h
  · cases h
  · split at h
    · cases h
    · cases h; refine ⟨rfl, by simp, by simp_all, by omega⟩

theorem readPalette_error {cap : Capacity} {m : Metadata} {buf : List Byte} {e : Raise}
    (h : readPalette cap m buf = .error e) : e = ⟨.truncatedData, 1⟩ ∨ e = ⟨.capacityExceeded, 1⟩ := by
  simp only [readPalette] at h
  split at h
  · cases h; simp
  · split at h
    · cases h; simp
    · cases h

/-! ### PixelDecoder -/

theorem lookup_ok_iff {pal : List RGB} {i : Nat} {p : RGB} : lookup pal i = .ok p ↔ pal[i]? = some p := by
  simp only [lookup]; cases pal[i]? <;> simp

theorem lookup_error_iff {pal : List RGB} {i : Nat} {e : Raise} :
    lookup pal i = .error e ↔ pal.length ≤ i ∧ e = ⟨.paletteIndexOutOfRange, i⟩ := by
  simp only [lookup]
  cases h : pal[i]? with
  | none => simp [List.getElem?_eq_none_iff.1 h, eq_comm]
  | some p =>
    have := (List.getElem?_eq_some_iff.1 h).1
    simp; intro; omega

theorem flatten_length {β : Type} {n : Nat} : ∀ {rows : List (List β)} (_ : ∀ r ∈ rows, r.length = n),
    rows.flatten.length = rows.length * n
  | [], _ => by simp
  | r :: rest, h => by
    simp only [List.flatten_cons, List.length_append, List.length_cons,
      flatten_length (fun r hr => h r (List.mem_cons_of_mem _ hr)), h r List.mem_cons_self]
    rw [Nat.succ_mul]; omega

/-- In rows of equal length, item `x` of row `y` of the concatenation is item `x` of row `y`. -/
theorem flatten_getElem? {β : Type} {n : Nat} : ∀ {rows : List (List β)} (_ : ∀ r ∈ rows, r.length = n)
    (y x : Nat) (_ : x < n), rows.flatten[y * n + x]? = (rows[y]?).bind (·[x]?)
  | [], _, y, x, _ => by simp
  | r :: rest, h, y, x, hx => by
    have hr := h r List.mem_cons_self
    cases y with
    | zero => simp [List.getElem?_append_left (hr ▸ hx)]
    | succ y =>
      have ih := flatten_getElem? (fun r hr => h r (List.mem_cons_of_mem _ hr)) y x hx
      simp only [List.flatten_cons, List.getElem?_cons_succ]
      rw [List.getElem?_append_right (by rw [hr, Nat.succ_mul]; omega), hr, ← ih]
      congr 1
      rw [Nat.succ_mul]; omega

/-- What a successful decode gives: the rows in file order, each of the width, and their arrangement (R143). -/
theorem decodePixels_ok {cap : Capacity} {d : Depth} {m : Metadata} {pal : List RGB} {buf : List Byte} {g : Grid}
    (h : decodePixels cap d m pal buf = .ok g) :
    m.pixoff.toNat + heightOf m * scanline d m ≤ buf.length ∧ fits cap (widthOf m * heightOf m) = true ∧
      ∃ rows, collect (decodeRow d m pal buf) (List.range (heightOf m)) = .ok rows ∧
        rows.length = heightOf m ∧ (∀ r ∈ rows, r.length = widthOf m) ∧
        g = ⟨widthOf m, heightOf m, topDown m rows⟩ := by
  simp only [decodePixels] at h
  split at h
  · cases h
  · split at h
    · cases h
    · rename_i h1 h2
      split at h
      · cases h
      · rename_i rows hrows
        cases h
        refine ⟨by omega, by simpa using h2, rows, hrows, by simpa using collect_length hrows, ?_, rfl⟩
        intro r hr
        have hmap := collect_eq_ok_iff.1 hrows
        have : Except.ok r ∈ (List.range (heightOf m)).map (decodeRow d m pal buf) :=
          hmap ▸ List.mem_map_of_mem hr
        obtain ⟨k, _, hk⟩ := List.mem_map.1 this
        simpa using collect_length hk

theorem topDown_length {m : Metadata} {n : Nat} {rows : List (List RGB)} (h : ∀ r ∈ rows, r.length = n) :
    (topDown m rows).length = rows.length * n := by
  simp only [topDown]
  split
  · exact flatten_length h
  · rw [flatten_length (fun r hr => h r (List.mem_reverse.1 hr)), List.length_reverse]

theorem decodePixels_dims {cap : Capacity} {d : Depth} {m : Metadata} {pal : List RGB} {buf : List Byte} {g : Grid}
    (h : decodePixels cap d m pal buf = .ok g) :
    g.w = widthOf m ∧ g.h = heightOf m ∧ g.px.length = widthOf m * heightOf m := by
  obtain ⟨_, _, rows, _, hlen, hrow, rfl⟩ := decodePixels_ok h
  exact ⟨rfl, rfl, by rw [topDown_length hrow, hlen, Nat.mul_comm]⟩

theorem pixelOf_error {d : Depth} {buf : List Byte} {pal : List RGB} {b x : Nat} {e : Raise}
    (h : pixelOf d buf pal b x = .error e) : e.kind = .paletteIndexOutOfRange := by
  cases d with
  | d24 => cases h
  | d8 => rw [(lookup_error_iff.1 h).2]
  | d4 => rw [(lookup_error_iff.1 h).2]
  | d1 => rw [(lookup_error_iff.1 h).2]

theorem decodePixels_error {cap : Capacity} {d : Depth} {m : Metadata} {pal : List RGB} {buf : List Byte} {e : Raise}
    (h : decodePixels cap d m pal buf = .error e) :
    e.kind = .truncatedData ∨ e.kind = .capacityExceeded ∨ e.kind = .paletteIndexOutOfRange := by
  simp only [decodePixels] at h
  split at h
  · cases h; simp
  · split at h
    · cases h; simp
    · split at h
      · rename_i hc
        cases h
        obtain ⟨_, r, _, _, _, hr⟩ := collect_eq_error_iff.1 hc
        obtain ⟨_, x, _, _, _, hx⟩ := collect_eq_error_iff.1 hr
        exact .inr (.inr (pixelOf_error hx))
      · cases h

/-! ### PixelTransformer, Resampler, PixmapEncoder -/

@[simp] theorem transform_w (n : Numerics) (b : Int) (er eg eb : Bool) (g : Grid) :
    (transform n b er eg eb g).w = g.w := rfl
@[simp] theorem transform_h (n : Numerics) (b : Int) (er eg eb : Bool) (g : Grid) :
    (transform n b er eg eb g).h = g.h := rfl
@[simp] theorem transform_px_length (n : Numerics) (b : Int) (er eg eb : Bool) (g : Grid) :
    (transform n b er eg eb g).px.length = g.px.length := by simp [transform]

theorem newDim_pos (n p : Nat) : 1 ≤ newDim n p := Nat.le_max_left _ _

theorem resample_px_length (g : Grid) (nw nh : Nat) : (resample g nw nh).px.length = nw * nh := by
  simp only [resample, List.flatMap]
  rw [flatten_length (n := nw) (by simp)]
  simp [Nat.mul_comm]

/-- What a successful resize gives (R222, R223). -/
theorem resize_ok {cap : Capacity} {p : Int} {g r : Grid} (h : resize cap p g = .ok r) :
    (p ≤ 0 ∧ r = ⟨1, 1, [RGB.black]⟩) ∨
    (0 < p ∧ r = resample g (newDim g.w p.toNat) (newDim g.h p.toNat) ∧
      fits cap (newDim g.w p.toNat * newDim g.h p.toNat) = true) := by
  simp only [resize] at h
  split at h
  · cases h; exact .inl ⟨by assumption, rfl⟩
  · split at h
    · cases h
    · cases h; refine .inr ⟨by omega, rfl, by simp_all⟩

theorem resize_error {cap : Capacity} {p : Int} {g : Grid} {e : Raise} (h : resize cap p g = .error e) :
    e = ⟨.capacityExceeded, 3⟩ := by
  simp only [resize] at h
  split at h
  · cases h
  · split at h
    · cases h; rfl
    · cases h

/-- A resized grid has both dimensions at least 1 and as many pixels as they say (R26). -/
theorem resize_shape {cap : Capacity} {p : Int} {g r : Grid} (h : resize cap p g = .ok r) :
    1 ≤ r.w ∧ 1 ≤ r.h ∧ r.px.length = r.w * r.h := by
  rcases resize_ok h with ⟨_, rfl⟩ | ⟨_, rfl, _⟩
  · simp
  · exact ⟨newDim_pos _ _, newDim_pos _ _, resample_px_length _ _ _⟩

theorem ppmBody_length (px : List RGB) : (ppmBody px).length = 3 * px.length := by
  simp only [ppmBody, List.flatMap]
  rw [flatten_length (n := 3) (by simp)]
  simp [Nat.mul_comm]

theorem ppm_length {g : Grid} (h : g.px.length = g.w * g.h) : (ppm g).length = ppmLength g.w g.h := by
  simp only [ppm, ppmLength, List.length_append, ppmBody_length, h, Nat.mul_assoc]

theorem encodePpm_ok {cap : Capacity} {g : Grid} {l : List Byte} (h : encodePpm cap g = .ok l) :
    l = ppm g ∧ fits cap (ppmLength g.w g.h) = true := by
  simp only [encodePpm] at h
  split at h
  · cases h
  · cases h; exact ⟨rfl, by simp_all⟩

theorem encodePpm_error {cap : Capacity} {g : Grid} {e : Raise} (h : encodePpm cap g = .error e) :
    e = ⟨.capacityExceeded, 4⟩ := by
  simp only [encodePpm] at h
  split at h
  · cases h; rfl
  · cases h

/-! ### Grids in memory -/

/-- A grid read from memory has the registers' dimensions and that many pixels. -/
theorem gridOf_ok {m : Memory RGB} {w h : Nat} {g : Grid} (hg : gridOf m w h = .ok g) :
    g.w = w ∧ g.h = h ∧ g.px.length = w * h ∧ Memory.slice m (w * h) = .ok g.px := by
  simp only [gridOf] at hg
  split at hg
  · rename_i px hpx; cases hg; exact ⟨rfl, rfl, slice_length hpx, hpx⟩
  · cases hg

theorem gridOf_writeAll (m : Memory RGB) {g : Grid} (h : g.px.length = g.w * g.h) :
    gridOf (Memory.writeAll m 0 g.px) g.w g.h = .ok g := by
  simp only [gridOf, slice_writeAll m g.px h.symm]

theorem gridOf_of_covers {m : Memory RGB} {w h : Nat} (hc : Memory.covers m (w * h)) :
    ∃ g, gridOf m w h = .ok g := by
  obtain ⟨l, hl⟩ := slice_of_covers hc
  exact ⟨⟨w, h, l⟩, by simp [gridOf, hl]⟩

theorem gridOf_congr {m m' : Memory RGB} {w h : Nat} (hs : Memory.sameBelow (w * h) m m') :
    gridOf m w h = gridOf m' w h := by
  simp only [gridOf, slice_congr hs]

/-! ### Command words -/

/-- The decoder gives only instructions whose operands fit their fields (R100). -/
theorem decode_wf {w : Word} {i : Instr} (h : decode w = .ok i) : i.wf = true := by
  have hr : fitsField (immField w) = true := by
    have h1 := BitVec.le_toInt (w.extractLsb' 0 16)
    have h2 := BitVec.toInt_lt (x := w.extractLsb' 0 16)
    have h3 : ((2 : Int) ^ (16 - 1)) = 32768 := by decide
    rw [h3] at h1 h2
    exact decide_eq_true ⟨h1, Int.le_of_lt_add_one h2⟩
  simp only [decode, decodeN, decodeX, decodeS] at h
  repeat (split at h; · (split at h <;> cases h; first | rfl | exact hr))
  cases h

end Sys2Proof.Machine
end

