-- ==== Sys2Proof/Laws/Step.lean ====
section
/-! SUPPORT. What a host action and a step can do, once (R46 to R49, R78, R300). -/

namespace Sys2Proof.Machine

/-- A host read behind a valid flag of 1 changes what the host has read and nothing else (R48). -/
theorem readLocation_valid {α : Type} {valid : Bool} {s : State} (hv : valid = true) (hb : s.status.busy = false)
    (inUse : Bool) (m : Memory α) (a : Nat) (wrap : α → HostData) (rest : α) (free : Nat → α) :
    readLocation valid inUse m a wrap rest free s =
      answer (wrap ((if inUse then Memory.read m a else none).getD rest)) s := by
  simp [readLocation, hv, hb]

/-- A host read inside the range in use answers what is stored (R48). -/
theorem readLocation_stored {α : Type} {valid inUse : Bool} {s : State} {m : Memory α} {a : Nat} {v : α}
    (hv : valid = true) (hi : inUse = true) (hb : s.status.busy = false) (hm : Memory.read m a = some v)
    (wrap : α → HostData) (rest : α) (free : Nat → α) :
    readLocation valid inUse m a wrap rest free s = answer (wrap v) s := by
  simp [readLocation_valid hv hb, hi, hm]

/-- A host read changes what the host has read and, for an unspecified value, the count of free values, and nothing
else (R48). -/
theorem readLocation_eq {α : Type} (valid inUse : Bool) (m : Memory α) (a : Nat) (wrap : α → HostData)
    (rest : α) (free : Nat → α) (s : State) :
    ∃ d n, readLocation valid inUse m a wrap rest free s = { s with hostData := some d, freeCount := n } := by
  simp only [readLocation]
  split
  · exact ⟨_, s.freeCount, rfl⟩
  · exact ⟨_, _, rfl⟩

theorem readRegister_eq (n : BitVec 5) (s : State) :
    ∃ d k, readRegister n s = { s with hostData := some d, freeCount := k } := by
  simp only [readRegister]
  split
  · exact ⟨_, s.freeCount, rfl⟩
  · exact ⟨_, _, rfl⟩

theorem readPixel_eq (g : GridName) (x y : Nat) (s : State) :
    ∃ d n, readPixel g x y s = { s with hostData := some d, freeCount := n } := by
  cases g <;> simp only [readPixel, readPixelOf] <;> exact readLocation_eq ..

/-- A generation stays where nothing became valid and the contents in use are the same. -/
@[simp] theorem generation_same (v : Bool) (n : Nat) : generation v v true n = n := by cases v <;> rfl

/-- A command that changes nothing renews nothing: the second of two equal commands is one (R71). -/
@[simp] theorem renew_self (s : State) : renew s s = s := by
  have same : ∀ {α : Type} [DecidableEq α] (n : Nat) (m : Memory α), Memory.sameUpTo n m m = true :=
    fun n m => sameUpTo_iff.2 fun _ _ => rfl
  simp [renew, nextGens, same]

/-- All a host action can answer as a next state. -/
theorem perform_cases {a : HostAction} {s t : State} (h : perform a s = .next t) :
    (∃ bytes, a = .loadbuf bytes ∧ s.status.busy = false ∧ fits s.cfg.ibufCap bytes.length = true ∧
      t = renewIbuf (loadFile bytes s)) ∨
    (∃ d n, t = { s with hostData := some d, freeCount := n }) ∨
    (t = s ∧ ∃ n v, a = .writeReg n v ∧ (n ≠ 0 ∨ s.status.busy = true)) ∨
    (∃ w i u, a = .issue w ∧ s.status.busy = false ∧ decode w = .ok i ∧ exec i s = .next u ∧ t = renew s u) ∨
    (∃ w r, a = .issue w ∧ s.status.busy = false ∧ decode w = .error r ∧ t = illegalCommand w s) ∨
    (a = .reset ∧ t = resetCore s) := by
  cases a with
  | loadbuf bytes =>
    simp only [perform, loadbuf] at h
    split at h
    · cases h
    · split at h
      · cases h
      · cases h; left; refine ⟨bytes, rfl, ?_, ?_, rfl⟩ <;> simp_all
  | writeReg n v =>
    simp only [perform, writeRegister] at h
    split at h
    · rename_i hn
      subst hn
      simp only [issueWord] at h
      split at h
      · rename_i hb; cases h; exact .inr (.inr (.inl ⟨rfl, 0, v, rfl, .inr hb⟩))
      · rename_i hb
        have hb : s.status.busy = false := by simpa using hb
        split at h
        · rename_i i hi
          obtain ⟨u, hu, ht⟩ := andThen_next_iff.1 h
          cases ht
          exact .inr (.inr (.inr (.inl ⟨v, i, u, rfl, hb, hi, hu, rfl⟩)))
        · rename_i r hr; cases h; exact .inr (.inr (.inr (.inr (.inl ⟨v, r, rfl, hb, hr, rfl⟩))))
    · rename_i hn; cases h; exact .inr (.inr (.inl ⟨rfl, n, v, rfl, .inl hn⟩))
  | readReg n =>
    cases h
    exact .inr (.inl (readRegister_eq n s))
  | readIbuf k =>
    cases h
    exact .inr (.inl (readLocation_eq ..))
  | readPal k =>
    cases h
    exact .inr (.inl (readLocation_eq ..))
  | readPixel g x y =>
    cases h
    exact .inr (.inl (readPixel_eq g x y s))
  | readObuf k =>
    cases h
    exact .inr (.inl (readLocation_eq ..))
  | reset => cases h; exact .inr (.inr (.inr (.inr (.inr ⟨rfl, rfl⟩))))

/-- A step is the host's next action, or no change. -/
theorem step_cases {s t : State} (h : step s = .next t) :
    (s.pending = [] ∧ t = s) ∨
    (∃ a rest, s.pending = a :: rest ∧ perform a { s with pending := rest } = .next t) := by
  simp only [step] at h
  split at h
  · rename_i hp; cases h; exact .inl ⟨hp, rfl⟩
  · rename_i a rest hp; exact .inr ⟨a, rest, hp, h⟩

theorem step_cons {s : State} {a : HostAction} {rest : List HostAction} (h : s.pending = a :: rest) :
    step s = perform a { s with pending := rest } := by simp only [step, h]

/-- An accepted command word is executed (R47). -/
theorem perform_issue {w : Word} {i : Instr} {s : State} (hb : s.status.busy = false) (hd : decode w = .ok i) :
    perform (.issue w) s = andThen (exec i s) fun t => .next (renew s t) := by
  simp [perform, writeRegister, issueWord, hb, hd]

theorem perform_illegal {w : Word} {r : Reject} {s : State} (hb : s.status.busy = false)
    (hd : decode w = .error r) : perform (.issue w) s = .next (illegalCommand w s) := by
  simp [perform, writeRegister, issueWord, hb, hd]

/-! ### Several steps -/

@[simp] theorem steps_zero (s : State) : steps 0 s = .next s := rfl

theorem steps_succ (k : Nat) (s : State) : steps (k + 1) s = andThen (step s) (steps k) := rfl

/-- Where the step answers a next state, the steps go on from it. -/
theorem steps_succ_next {k : Nat} {s t : State} (h : step s = .next t) : steps (k + 1) s = steps k t := by
  rw [steps_succ, h]; rfl

/-- A run of any machine is its first step, then the run from there. -/
theorem core_run_succ (M : Host.Core) (k : Nat) (s : M.State) : M.run (k + 1) s =
    match M.step s with
    | .next t => M.run k t
    | .fault f => .fault f
    | .refused f => .refused f := rfl

/-- `steps` is the host's run of the machine. -/
theorem core_run_eq_steps (k : Nat) (s : State) : (Host.Core.run Sys2Proof.core k s : Result) = steps k s := by
  induction k generalizing s with
  | zero => rfl
  | succ k ih =>
    refine (core_run_succ Sys2Proof.core k s).trans ?_
    rw [steps_succ]
    have h : Sys2Proof.core.step s = step s := rfl
    cases hs : step s <;> rw [hs] at h <;> rw [h]
    · exact ih _
    · rfl
    · rfl

/-! ### No meaning reads or writes the queue of host actions or the generations (R78, log 1, log 17) -/

/-- The state with another queue of host actions and other generations. -/
def beside (p : List HostAction) (g : Generations) (s : State) : State := { s with pending := p, gens := g }

@[simp] theorem beside_self (s : State) : beside s.pending s.gens s = s := rfl

theorem frame_beside {missing : Option Nat} {start : State → State} {k : BitVec 4} {work : State → StageEnd}
    (p : List HostAction) (g : Generations) (s : State) (hs : start (beside p g s) = beside p g (start s))
    (hw : ∀ u, work (beside p g u) = match work u with | .done t => .done (beside p g t) | e => e) :
    frame missing start k work (beside p g s) =
      andThen (frame missing start k work s) fun t => .next (beside p g t) := by
  simp only [frame]
  cases missing with
  | some b => rfl
  | none =>
    simp only [hs, hw]
    cases work (start s) <;> rfl

theorem runStage_beside {α β : Type} {input : Except Fault α} {f : α → Except Raise β} {store : β → State → State}
    (p : List HostAction) (g : Generations) (s : State) (h : ∀ y, store y (beside p g s) = beside p g (store y s)) :
    runStage input f store (beside p g s) =
      match runStage input f store s with | .done t => .done (beside p g t) | e => e := by
  simp only [runStage]
  cases input with
  | error e => rfl
  | ok x => dsimp only; cases f x <;> simp [h]

/-- A continuation that does not touch them either can be put behind. -/
theorem andThen_beside {r : Result} {k : State → Result} {p : List HostAction} {g : Generations}
    (hk : ∀ s, k (beside p g s) = andThen (k s) fun t => .next (beside p g t)) :
    andThen (andThen r fun t => .next (beside p g t)) k = andThen (andThen r k) fun t => .next (beside p g t) := by
  cases r with
  | next s => exact hk s
  | fault f => rfl
  | refused f => rfl

theorem unlessError_beside {k : State → Result} {p : List HostAction} {g : Generations}
    (hk : ∀ s, k (beside p g s) = andThen (k s) fun t => .next (beside p g t)) (s : State) :
    unlessError k (beside p g s) = andThen (unlessError k s) fun t => .next (beside p g t) := by
  simp only [unlessError, show (beside p g s).err = s.err from rfl]
  split
  · exact hk s
  · rfl

section
variable (p : List HostAction) (g : Generations) (s : State)

theorem hparse_beside :
    hparseCommand (beside p g s) = andThen (hparseCommand s) fun t => .next (beside p g t) :=
  frame_beside p g s rfl fun _ => runStage_beside p g _ fun _ => rfl

theorem palrd_beside : palrdCommand (beside p g s) = andThen (palrdCommand s) fun t => .next (beside p g t) := by
  refine frame_beside p g s ?_ fun u => ?_
  · simp only [palrdStart, show (beside p g s).imeta = s.imeta from rfl]
    split <;> rfl
  · simp only [palrdWork, show (beside p g u).imeta = u.imeta from rfl]
    cases depthOf u.imeta.bpp with
    | none => rfl
    | some d => cases d <;> first | rfl | exact runStage_beside p g _ fun _ => rfl

theorem pxdec_beside : pxdecCommand (beside p g s) = andThen (pxdecCommand s) fun t => .next (beside p g t) := by
  refine frame_beside p g s rfl fun u => ?_
  simp only [pxdecWork, pxdecAt, show (beside p g u).imeta = u.imeta from rfl]
  cases depthOf u.imeta.bpp with
  | none => rfl
  | some d =>
    simp only [show paletteFor d (beside p g u) = paletteFor d u from rfl]
    cases paletteFor d u with
    | error e => rfl
    | ok pal => exact runStage_beside p g _ fun _ => rfl

theorem xform_beside (b : Int) (er eg eb : Bool) :
    xformCommand b er eg eb (beside p g s) = andThen (xformCommand b er eg eb s) fun t => .next (beside p g t) :=
  frame_beside p g s rfl fun _ => runStage_beside p g _ fun _ => rfl

theorem resize_beside (n : Int) :
    resizeCommand n (beside p g s) = andThen (resizeCommand n s) fun t => .next (beside p g t) := by
  refine frame_beside p g s rfl fun u => ?_
  simp only [resizeWork]
  split
  · rfl
  · exact runStage_beside p g _ fun _ => rfl

theorem ppmenc_beside : ppmencCommand (beside p g s) = andThen (ppmencCommand s) fun t => .next (beside p g t) :=
  frame_beside p g s rfl fun _ => runStage_beside p g _ fun _ => rfl

theorem decode_beside : decodeCommand (beside p g s) = andThen (decodeCommand s) fun t => .next (beside p g t) := by
  simp only [decodeCommand, hparse_beside]
  refine andThen_beside fun u => unlessError_beside (fun v => ?_) u
  simp only [show (beside p g v).imeta = v.imeta from rfl]
  split
  · rw [palrd_beside]
    exact andThen_beside fun u => unlessError_beside (fun v => pxdec_beside p g v) u
  · exact pxdec_beside p g v

theorem render_beside (b : Int) (er eg eb : Bool) (n : Int) :
    execRender b er eg eb n (beside p g s) = andThen (execRender b er eg eb n s) fun t => .next (beside p g t) := by
  simp only [execRender, xform_beside]
  refine andThen_beside fun u => ?_
  rw [resize_beside]
  exact andThen_beside fun v => ppmenc_beside p g v

/-- A meaning does the same whatever the queue and the generations hold, and leaves them as they are. -/
theorem exec_beside (i : Instr) : exec i (beside p g s) = andThen (exec i s) fun t => .next (beside p g t) := by
  cases i with
  | hparse => exact hparse_beside p g s
  | palrd => exact palrd_beside p g s
  | pxdec => exact pxdec_beside p g s
  | pxdec24 => exact pxdec_beside p g s
  | pxdec8 => exact pxdec_beside p g s
  | pxdec4 => exact pxdec_beside p g s
  | pxdec1 => exact pxdec_beside p g s
  | xform b er eg eb => exact xform_beside p g s b er eg eb
  | xformId => exact xform_beside p g s 100 true true true
  | resize n => exact resize_beside p g s n
  | ppmenc => exact ppmenc_beside p g s
  | decode => exact decode_beside p g s
  | render b er eg eb n => exact render_beside p g s b er eg eb n

end

end Sys2Proof.Machine
end

