-- ==== Sys2Proof/Tests/Slice0.lean ====
section
/-! SUPPORT. Tests of the model. Expected values are the spec's: its encodings (R91 to R93), its examples and vectors
(95_test_vectors.md), or a hand calculation from a rule named beside the test. `witness_…` theorems show, for each
statement with hypotheses, a concrete input that meets them. -/

namespace Sys2Proof.Tests

open Sys2Proof Sys2Proof.Machine

-- one theorem at a time: each kernel evaluation would otherwise hold a thread and its stack
set_option Elab.async false

/-! ### Helpers -/

def bytes (l : List Nat) : List Byte := l.map (BitVec.ofNat 8)

/-- A file of 54 header bytes with the fields given, all other header bytes 0, and the rest. -/
def header (size pixoff w h bpp comp count : List Nat) : List Nat :=
  [0x42, 0x4D] ++ size ++ [0, 0, 0, 0] ++ pixoff ++ [40, 0, 0, 0] ++ w ++ h ++ [1, 0] ++ bpp ++ comp ++
    [0, 0, 0, 0, 0, 0, 0, 0, 0, 0, 0, 0] ++ count ++ [0, 0, 0, 0]

/-- F24 of section V1 of 95_test_vectors.md but for its unread bytes. -/
def f24 : List Byte :=
  bytes (header [70, 0, 0, 0] [54, 0, 0, 0] [2, 0, 0, 0] [2, 0, 0, 0] [24, 0] [0, 0, 0, 0] [0, 0, 0, 0] ++
    [1, 2, 3, 4, 5, 6, 0, 0, 7, 8, 9, 10, 11, 12, 0, 0])

/-- F4 of section V2 but for its unread bytes: depth 4, 3 by 2, top-down, 3 palette entries. -/
def f4 : List Byte :=
  bytes (header [74, 0, 0, 0] [66, 0, 0, 0] [3, 0, 0, 0] [0xFE, 0xFF, 0xFF, 0xFF] [4, 0] [0, 0, 0, 0] [3, 0, 0, 0] ++
    [0, 0, 0xFF, 0, 0, 0xFF, 0, 0, 0x1E, 0x14, 0x0A, 0] ++ [0x01, 0x2F, 0xEE, 0xEE, 0x21, 0, 0xEE, 0xEE])

/-- The file of V3.5 but for its unread bytes: depth 8, 2 by 2, bottom-up, 2 palette entries. -/
def f8 (pixels : List Nat) : List Byte :=
  bytes (header [70, 0, 0, 0] [62, 0, 0, 0] [2, 0, 0, 0] [2, 0, 0, 0] [8, 0] [0, 0, 0, 0] [2, 0, 0, 0] ++
    [3, 2, 1, 0, 6, 5, 4, 0] ++ pixels)

/-- A depth-1 file, 9 by 1: two bytes of pixels, the last pixel in the top bit of the second. -/
def f1 : List Byte :=
  bytes (header [66, 0, 0, 0] [62, 0, 0, 0] [9, 0, 0, 0] [1, 0, 0, 0] [1, 0] [0, 0, 0, 0] [2, 0, 0, 0] ++
    [3, 2, 1, 0, 6, 5, 4, 0] ++ [0x01, 0xFF, 0, 0])

/-- The file with one byte changed. -/
def patched (f : List Byte) (a v : Nat) : List Byte := f.set a (BitVec.ofNat 8 v)

/-- Reset, then `LOADBUF` (`test_loaded`): the file's bytes at addresses 0, 1, 2 and so on. -/
def loaded (f : List Byte) : State :=
  { State.reset with
    ibuf := (List.range f.length).zip f, ibufLen := f.length, status := { Status.zero with ibufValid := true } }

/-- The state after the commands, where each answers one. -/
def after (is : List Instr) (s : State) : State :=
  match is with
  | [] => s
  | i :: rest =>
    match exec i s with
    | .next t => after rest t
    | _ => s

/-- An OGRID of one row under a valid flag. -/
def withRow (px : List RGB) (s : State) : State := storeOgrid ⟨px.length, 1, px⟩ s

/-- A TGRID under a valid flag. -/
def withTgrid (w h : Nat) (px : List RGB) (s : State) : State := storeTgrid ⟨w, h, px⟩ s

def inBinary64 (s : State) : State := { s with cfg := { s.cfg with numerics := .binary64 } }

/-- The capacities as small as R11 allows, but for the palette's. -/
def tiny (s : State) : State :=
  { s with
    cfg := { ibufCap := .atMost 54, palCap := .atMost 2, gridCap := .atMost 1, obufCap := .atMost 14, numerics := .exact } }

def statusOf (s : State) : Nat := (statusWord s.status).toNat

def errOf (s : State) : Nat × Nat := ((errWord s.err).toNat, s.errInfo.toNat)

/-- `t` is what the outcome holds. -/
def reaches (r : Result) (p : State → Bool) : Bool :=
  match r with
  | .next t => p t
  | _ => false

/-! ### Well-formedness refuses what a field cannot carry (R121) -/

theorem test_wf_bright_above : (Instr.xform 32768 true true true).wf = false := by decide
theorem test_wf_bright_below : (Instr.xform (-32769) true true true).wf = false := by decide
theorem test_wf_percent_above : (Instr.resize 32768).wf = false := by decide
theorem test_wf_percent_below : (Instr.resize (-32769)).wf = false := by decide
theorem test_wf_render_bright : (Instr.render 32768 true true true 50).wf = false := by decide
theorem test_wf_render_percent : (Instr.render 50 true true true (-32769)).wf = false := by decide
theorem test_wf_ends : (Instr.render (-32768) false false false 32767).wf = true := by decide

/-! ### Decoding: words written out from R91 to R93, R95 -/

theorem test_decode_hparse : decode 0b00000001000000000000000000000000#32 = .ok .hparse := by decide
theorem test_decode_palrd : decode 0b00000010000000000000000000000000#32 = .ok .palrd := by decide
theorem test_decode_pxdec : decode 0b00000011000000000000000000000000#32 = .ok .pxdec := by decide
/-- OPC 0x04, ZERO 00000, ER 1, EG 0, EB 0, BRIGHT 100. -/
theorem test_decode_xform_red :
    decode 0b00000100000001000000000001100100#32 = .ok (.xform 100 true false false) := by decide
/-- OPC 0x04, ZERO 00000, ER 0, EG 1, EB 0, BRIGHT -32768. -/
theorem test_decode_xform_green :
    decode 0b00000100000000101000000000000000#32 = .ok (.xform (-32768) false true false) := by decide
/-- OPC 0x05, ZERO 00000000, PCT -5. -/
theorem test_decode_resize : decode 0b00000101000000001111111111111011#32 = .ok (.resize (-5)) := by decide
theorem test_decode_resize_top : decode 0b00000101000000000111111111111111#32 = .ok (.resize 32767) := by decide
theorem test_decode_ppmenc : decode 0b00000110000000000000000000000000#32 = .ok .ppmenc := by decide
theorem test_decode_decode : decode 0b00000111000000000000000000000000#32 = .ok .decode := by decide
/-- V0's illegal words. -/
theorem test_decode_reserved : decode 0x05010032#32 = .error (.reservedBitsSet 0x05010032#32) ∧
    decode 0x01000001#32 = .error (.reservedBitsSet 0x01000001#32) ∧
    decode 0x04080064#32 = .error (.reservedBitsSet 0x04080064#32) := by decide
theorem test_decode_unassigned : decode 0#32 = .error (.unassignedOpcode 0#8) ∧
    decode 0x09000000#32 = .error (.unassignedOpcode 9#8) := by decide
/-- V0: the words of the variants and pseudo-instructions (R122, R123, R170). -/
theorem test_encode_variants : encode .pxdec24 = [0x03000000#32] ∧ encode .pxdec8 = [0x03000000#32] ∧
    encode .pxdec4 = [0x03000000#32] ∧ encode .pxdec1 = [0x03000000#32] ∧ encode .xformId = [0x04070064#32] ∧
    encode (.render 80 true true false 50) = [0x04060050#32, 0x05000032#32, 0x06000000#32] := by decide

/-! ### Assembler lines (R120 to R124) -/

theorem test_asm_render : assembleLine " RENDER -10, GB, 50 ; dim".toList =
    .ok [.issue 0x0403FFF6#32, .issue 0x05000032#32, .issue 0x06000000#32] := by decide +kernel
theorem test_asm_load : assembleLine "LOAD 42 4D 0A".toList = .ok [.loadbuf [0x42#8, 0x4D#8, 0x0A#8]] := by
  decide +kernel
theorem test_asm_range : assembleLine "RESIZE 32768".toList = .error .outOfRange ∧
    assembleLine "XFORM 50, GR".toList = .error .badOperands := by decide +kernel

/-! ### LOADBUF (R46) -/

theorem test_loaded : reaches (step { State.reset with pending := [.loadbuf f24] }) (fun t =>
    t == renewIbuf (loaded f24)) = true := by
  decide +kernel

/-! ### HPARSE (V1) -/

/-- The fields of F4 (V2; R131): height -2 is logical height 2, top-down. -/
theorem test_hparse_f4 : parseHeader f4 = .ok
      { filesize := 74, pixoff := 66, hdrsize := 40, width := 3, height := 2, bpp := 4, compression := 0, palcount := 3
        topdown := true } := by decide +kernel
/-- V1.17: `00 18` at 28 is depth 6144. -/
theorem test_hparse_depth_bytes :
    errOf (after [.hparse] (loaded (patched (patched f24 28 0) 29 0x18))) = (0x0103, 0x1800) := by decide +kernel

/-! ### PALRD (V2.1, V2.3, V2.10) -/

theorem test_palrd_f4 : reaches (exec .palrd (after [.hparse] (loaded f4))) (fun t =>
    statusOf t == 0x00E && t.palLen == 3 && t.pal == [(0, ⟨255, 0, 0⟩), (1, ⟨0, 255, 0⟩), (2, ⟨10, 20, 30⟩)]) = true := by
  decide +kernel
theorem test_palrd_short : errOf (after [.hparse, .palrd] (loaded (f4.take 65))) = (0x0204, 1) := by decide +kernel

/-! ### PXDEC and DECODE (V3.1, V3.4, V3.5; R174 by hand) -/

theorem test_pxdec_depth1 : (after [.hparse, .palrd, .pxdec1] (loaded f1)).ogrid.map Prod.snd =
    List.replicate 7 ⟨1, 2, 3⟩ ++ [⟨4, 5, 6⟩, ⟨4, 5, 6⟩] := by decide +kernel
theorem test_pxdec_first_bad_index :
    errOf (after [.hparse, .palrd, .pxdec8] (loaded (f8 [0, 9, 0, 0, 7, 1, 0, 0]))) = (0x0305, 9) := by decide +kernel
theorem test_decode_f24 : reaches (exec .decode (loaded f24)) (fun t => statusOf t == 0x016 &&
    decide (ogridOf t = .ok ⟨2, 2, [⟨9, 8, 7⟩, ⟨12, 11, 10⟩, ⟨3, 2, 1⟩, ⟨6, 5, 4⟩]⟩)) = true := by decide +kernel
theorem test_decode_f4 : reaches (exec .decode (loaded f4)) (fun t => statusOf t == 0x01E &&
    decide (ogridOf t =
      .ok ⟨3, 2, [⟨255, 0, 0⟩, ⟨0, 255, 0⟩, ⟨10, 20, 30⟩, ⟨10, 20, 30⟩, ⟨0, 255, 0⟩, ⟨255, 0, 0⟩]⟩)) = true := by
  decide +kernel

/-! ### XFORM (S5, P6) -/

theorem test_xform_masking :
    tgridOf (after [.xform 50 false true true] (withRow [⟨200, 150, 50⟩] State.reset)) = .ok ⟨1, 1, [⟨0, 75, 25⟩]⟩ := by
  decide +kernel
theorem test_xform_numerics :
    (after [.xform 29 true true true] (withRow [⟨100, 200, 50⟩] State.reset)).tgrid = [(0, ⟨29, 58, 14⟩)] ∧
    (after [.xform 29 true true true] (inBinary64 (withRow [⟨100, 200, 50⟩] State.reset))).tgrid =
      [(0, ⟨28, 57, 14⟩)] := by decide +kernel

/-- R210 (b), by hand: 200 at brightness 50 is 100, and 50 when applied again. -/
theorem test_transform_twice :
    transform .exact 50 true true true (transform .exact 50 true true true ⟨1, 1, [⟨200, 200, 200⟩]⟩) =
      ⟨1, 1, [⟨50, 50, 50⟩]⟩ := by decide +kernel

/-! ### RESIZE (R224 by hand: a row of 3 to 150 percent is 4, sources 0, 0, 1, 2; S7) -/

theorem test_resize_up : rgridOf (after [.resize 150] (withTgrid 3 1 [⟨1, 0, 0⟩, ⟨2, 0, 0⟩, ⟨3, 0, 0⟩] State.reset)) =
    .ok ⟨4, 1, [⟨1, 0, 0⟩, ⟨1, 0, 0⟩, ⟨2, 0, 0⟩, ⟨3, 0, 0⟩]⟩ := by decide +kernel
theorem test_resize_negative :
    rgridOf (after [.resize (-5)] (withTgrid 1 1 [⟨9, 9, 9⟩] State.reset)) = .ok ⟨1, 1, [⟨0, 0, 0⟩]⟩ := by decide +kernel

/-! ### PPMENC, RENDER (S9; R116) -/

theorem test_ppmenc_white :
    imageOf (after [.ppmenc] (storeRgrid ⟨1, 1, [⟨255, 255, 255⟩]⟩ State.reset)) =
      .ok (bytes [0x50, 0x36, 0x0A, 0x31, 0x20, 0x31, 0x0A, 0x32, 0x35, 0x35, 0x0A, 0xFF, 0xFF, 0xFF]) := by
  decide +kernel
theorem test_numeral : dec 640 = bytes [0x36, 0x34, 0x30] ∧ dec 10 = bytes [0x31, 0x30] := by decide +kernel
/-- Steps 9 to 11 of program P4 in one instruction. -/
theorem test_render_black : reaches (exec (.render 80 true true false 0)
    (after [.decode] (loaded (f8 [0, 1, 0, 0, 1, 0, 0, 0])))) (fun t => statusOf t == 0x0FE && t.obufLen == 14 &&
      decide (imageOf t = .ok (bytes [0x50, 0x36, 0x0A, 0x31, 0x20, 0x31, 0x0A, 0x32, 0x35, 0x35, 0x0A, 0, 0, 0]))) =
    true := by decide +kernel

/-! ### The host (P4's first step; R28) -/

theorem test_step_runs_from_reset : errOf (match step (State.reset.withFetchWord 32 0x01000000) with
    | .next t => t
    | _ => State.reset) = (0x0007, 1) := by decide +kernel
theorem test_table_word : decodeTableWord 32 0x05000032 = some (.resize 50) ∧ decodeTableWord 32 0x05010032 = none := by
  decide

/-! ### Witnesses: command words and steps -/

/-- The host's next action is `a`, then a read of `STATUS`. -/
def todo (a : HostAction) (s : State) : State := { s with pending := [a, .readReg 1] }

def busyNow (s : State) : State := { s with status := { s.status with busy := true } }

/-- F4 decoded and rendered: every valid flag is 1. -/
def rendered : State := after [.decode, .render 100 true true true 100] (loaded f4)

theorem witness_DecodeOfEncodeIsTheInstruction : (Instr.xform (-32768) false true false).wf = true ∧
    (Instr.resize 32767).wf = true ∧ (Instr.render 32767 true false true (-32768)).wf = true ∧
    Instr.pxdec8.wf = true := by decide

theorem witness_EncodeOfDecodeIsTheWord : decode 0x04008000#32 = .ok (.xform (-32768) false false false) := by decide

/-- One word for each way to be illegal, at the ends of its range, and a legal one. -/
theorem witness_IllegalWordsEndAtOnce :
    (todo (.issue 0#32) State.reset).pending = .issue 0#32 :: [.readReg 1] ∧ State.reset.status.busy = false ∧
    (0#32 : Word).toNat / 2 ^ 24 = 0 ∧ 8 ≤ (0x08000000#32 : Word).toNat / 2 ^ 24 ∧
    8 ≤ (0xFFFFFFFF#32 : Word).toNat / 2 ^ 24 ∧ (0x07000001#32 : Word).toNat % 2 ^ 24 ≠ 0 ∧
    (0x04080000#32 : Word).toNat / 2 ^ 19 % 2 ^ 5 ≠ 0 ∧ (0x05010000#32 : Word).toNat / 2 ^ 16 % 2 ^ 8 ≠ 0 ∧
    (0x0507FFFF#32 : Word).toNat / 2 ^ 16 % 2 ^ 8 ≠ 0 ∧ (0x0407FFFF#32 : Word).toNat / 2 ^ 19 % 2 ^ 5 = 0 := by decide

theorem witness_AssemblerReadsWhatIsWritten : (Instr.render (-32768) false true false 32767).wf = true := by decide

theorem witness_StepRunsTheDecodedCommand :
    (todo (.issue 0x07000000#32) (loaded f4)).pending = .issue 0x07000000#32 :: [.readReg 1] ∧
    (loaded f4).status.busy = false ∧ decode 0x07000000#32 = .ok .decode ∧
    decode (commandWord 32 0x0407FFF6) = .ok (.xform (-10) true true true) ∧
    (todo (.issue 0#32) (busyNow State.reset)).pending = .issue 0#32 :: [.readReg 1] ∧
    (busyNow State.reset).status.busy = true ∧ State.reset.pending = [] := by decide +kernel

theorem witness_IssuingTheWordsRunsTheInstruction : (Instr.render 80 true true false (-5)).wf = true ∧
    rendered.pending = [] ∧ rendered.status.busy = false := by decide +kernel

/-! ### Witnesses: the host -/

/-- A file of exactly `IBUF_CAP` bytes, and an empty one. -/
theorem witness_LoadbufStoresTheFile :
    (todo (.loadbuf (f24.take 54)) (tiny rendered)).pending = .loadbuf (f24.take 54) :: [.readReg 1] ∧
    (tiny rendered).status.busy = false ∧ fits (tiny rendered).cfg.ibufCap (f24.take 54).length = true ∧
    fits (tiny rendered).cfg.ibufCap ([] : List Byte).length = true := by decide +kernel

theorem witness_LoadbufRefusals :
    (todo (.loadbuf (f24.take 55)) (tiny State.reset)).pending = .loadbuf (f24.take 55) :: [.readReg 1] ∧
    (busyNow State.reset).status.busy = true ∧ (tiny State.reset).status.busy = false ∧
    fits (tiny State.reset).cfg.ibufCap (f24.take 55).length = false := by decide +kernel

theorem witness_HostReadsHaveNoSideEffect :
    ((todo (.readPixel .resampled 2 1) rendered).pending = .readPixel .resampled 2 1 :: [.readReg 1] ∧
      isHostRead (.readPixel .resampled 2 1)) ∧
    isHostRead (.readReg 31) ∧ isHostRead (.readIbuf 0) ∧ isHostRead (.readPal 0) ∧ isHostRead (.readObuf 0) := by
  refine ⟨⟨by decide +kernel, ?_⟩, ?_, ?_, ?_, ?_⟩ <;> simp [isHostRead]

/-- Registers at the ends of the table, behind a flag of 1 and with none. -/
theorem witness_RegisterReadsFollowTheTable :
    (todo (.readReg 31) rendered).pending = .readReg 31 :: [.readReg 1] ∧ rendered.status.busy = false ∧
    ((0 : BitVec 5).toNat, true, 0) ∈ registerTable rendered ∧
    ((1 : BitVec 5).toNat, true, 0x0FE) ∈ registerTable rendered ∧
    ((9 : BitVec 5).toNat, true, 2) ∈ registerTable rendered ∧
    ((21 : BitVec 5).toNat, true, 29) ∈ registerTable rendered ∧
    ((31 : BitVec 5).toNat, true, 0) ∈ registerTable rendered := by decide +kernel

/-- The last location of each memory. -/
theorem witness_LocationReadsAnswerTheContents :
    (todo (.readPixel .original 2 1) rendered).pending = .readPixel .original 2 1 :: [.readReg 1] ∧
    rendered.status.busy = false ∧
    (rendered.status.ibufValid = true ∧ 73 < rendered.ibufLen ∧ Memory.read rendered.ibuf 73 = some 0xEE#8) ∧
    (rendered.status.palValid = true ∧ 2 < rendered.palLen.toNat ∧ Memory.read rendered.pal 2 = some ⟨10, 20, 30⟩) ∧
    (rendered.status.ogridValid = true ∧ 2 < rendered.ogW ∧ 1 < rendered.ogH ∧
      Memory.read rendered.ogrid (1 * rendered.ogW + 2) = some ⟨255, 0, 0⟩) ∧
    (rendered.status.tgridValid = true ∧ 2 < rendered.tgW ∧ 1 < rendered.tgH ∧
      Memory.read rendered.tgrid (1 * rendered.tgW + 2) = some ⟨255, 0, 0⟩) ∧
    (rendered.status.rgridValid = true ∧ 2 < rendered.rgW ∧ 1 < rendered.rgH ∧
      Memory.read rendered.rgrid (1 * rendered.rgW + 2) = some ⟨255, 0, 0⟩) ∧
    (rendered.status.obufValid = true ∧ 28 < rendered.obufLen ∧ Memory.read rendered.obuf 28 = some 0#8) := by
  decide +kernel

/-- Inside and beyond the file, with a read of unspecified state and an ignored write in between. -/
theorem witness_RepeatedReadsAgree : ∀ k ∈ [1, 2],
    let between : List HostAction := [.readObuf 0, .writeReg 3 5]
    let s := { loaded (bytes [1, 2]) with pending := .readIbuf k :: (between ++ .readIbuf k :: [.readReg 1]) }
    s.pending = .readIbuf k :: (between ++ .readIbuf k :: [.readReg 1]) ∧ s.status.busy = false ∧
      isValidRead (.readIbuf k) s = true ∧
      (∀ b ∈ between, isHostRead b ∨ ∃ n v, b = .writeReg n v ∧ n ≠ 0) := by
  intro k _
  refine ⟨rfl, rfl, rfl, ?_⟩
  simp [isHostRead]

theorem witness_HostWritesNothingButCmd :
    (todo (.writeReg 31 5) State.reset).pending = .writeReg 31 5 :: [.readReg 1] ∧ (31 : BitVec 5) ≠ 0 ∧
    (todo (.writeReg 1 5) State.reset).pending = .writeReg 1 5 :: [.readReg 1] ∧ (1 : BitVec 5) ≠ 0 := by decide

theorem witness_ResetClearsStatus : (todo .reset rendered).pending = .reset :: [.readReg 1] := by decide +kernel

/-! ### Witnesses: the frame -/

/-- Each input flag as the lowest missing one. -/
theorem witness_MissingInputChangesNothing : State.reset.status.busy = false ∧
    neededFlags .decode State.reset = [] ++ (1, false) :: [] ∧
    neededFlags .palrd (loaded f4) = [(1, true)] ++ (2, false) :: [] ∧
    neededFlags .pxdec (after [.hparse] (loaded f4)) = [(1, true), (2, true)] ++ (3, false) :: [] ∧
    neededFlags (.xform 50 true true true) State.reset = [] ++ (4, false) :: [] ∧
    neededFlags (.resize 50) State.reset = [] ++ (5, false) :: [] ∧
    neededFlags .ppmenc State.reset = [] ++ (6, false) :: [] ∧
    (∀ q ∈ [((1 : Nat), true), (2, true)], q.2 = true) := by decide +kernel

theorem witness_ErrorReportsFollowTheTable :
    (todo (.issue 0x03000000#32) State.reset).pending = .issue 0x03000000#32 :: [.readReg 1] ∧
    State.reset.status.busy = false ∧
    reaches (step (todo (.issue 0x03000000#32) State.reset)) (fun t => errOf t == (0x0007, 1)) = true := by decide +kernel

theorem witness_ErrSeenIsSticky : Instr.pxdec.wf = true ∧
    (todo (.issue 0#32) State.reset).pending = .issue 0#32 :: [.readReg 1] ∧ State.reset.status.busy = false ∧
    reaches (step (todo (.issue 0#32) State.reset)) (fun t => t.err.code != 0) = true ∧
    reaches (step (todo .reset (after [.pxdec] State.reset))) (fun t => !t.status.errSeen) = true ∧
    reaches (exec .pxdec State.reset) (fun t => t.err.code != 0) = true ∧
    reaches (step (todo (.loadbuf f4) (after [.pxdec] State.reset))) (fun _ => true) = true ∧
    (after [.pxdec] State.reset).status.errSeen = true ∧
    (∀ rest, (todo (.loadbuf f4) (after [.pxdec] State.reset)).pending ≠ .reset :: rest) := by
  refine ⟨by decide, by decide, by decide, by decide +kernel, by decide +kernel, by decide +kernel, by decide +kernel,
    by decide +kernel, ?_⟩
  intro rest h
  cases h

theorem witness_CommandsKeepTheirInputs : (Instr.render 50 true true true 200).wf = true ∧
    reaches (exec (.render 50 true true true 200) rendered) (fun t => t.err.code == 0) = true ∧
    isRendering (.render 50 true true true 200) = true ∧ Instr.palrd ≠ .hparse ∧ Instr.palrd ≠ .decode := by
  decide +kernel

/-! ### Witnesses: HPARSE -/

theorem witness_FieldsAreLittleEndian : memRead f24 18 4 < 2 ^ 31 ∧ 2 ^ 31 ≤ memRead f4 22 4 ∧
    memRead (bytes [0xFF, 0xFF, 0xFF, 0x7F]) 0 4 < 2 ^ 31 ∧ 2 ^ 31 ≤ memRead (bytes [0, 0, 0, 0x80]) 0 4 := by decide +kernel

/-- F4 (negative height, indexed), F24 of 54 bytes, and a count of 0 at depth 8. -/
theorem witness_HparseExtractsTheHeader : ∀ f ∈ [f4, f24.take 54, patched f24 28 8],
    (loaded f).status.ibufValid = true ∧ fileOf (loaded f) = .ok f ∧ 54 ≤ f.length ∧ byteAt f 0 = 0x42#8 ∧
    byteAt f 1 = 0x4D#8 ∧ memRead f 30 4 = 0 ∧ memRead f 28 2 ∈ [1, 4, 8, 24] ∧ 0 < sext32 (memRead f 18 4) ∧
    sext32 (memRead f 22 4) ≠ 0 := by decide +kernel

/-- A file for each clause, where it meets its neighbours. -/
theorem witness_HparseRejectsInOrder :
    (∀ f ∈ [f24.take 53, patched f24 1 0x4E, patched f24 30 1, patched f24 28 2, patched f24 18 0, patched f24 22 0],
      (loaded f).status.ibufValid = true ∧ fileOf (loaded f) = .ok f ∧ (f = f24.take 53 ∨ 54 ≤ f.length)) ∧
    (∀ f ∈ [patched f24 30 1, patched f24 28 2, patched f24 18 0, patched f24 22 0],
      byteAt f 0 = 0x42#8 ∧ byteAt f 1 = 0x4D#8) ∧
    (∀ f ∈ [patched f24 28 2, patched f24 18 0, patched f24 22 0], memRead f 30 4 = 0) ∧
    (f24.take 53).length < 54 ∧
    (54 ≤ (patched f24 1 0x4E).length ∧ ¬(byteAt (patched f24 1 0x4E) 0 = 0x42#8 ∧ byteAt (patched f24 1 0x4E) 1 = 0x4D#8)) ∧
    ((byteAt (patched f24 30 1) 0 = 0x42#8 ∧ byteAt (patched f24 30 1) 1 = 0x4D#8) ∧ memRead (patched f24 30 1) 30 4 ≠ 0) ∧
    (memRead (patched f24 28 2) 30 4 = 0 ∧ memRead (patched f24 28 2) 28 2 ∉ [1, 4, 8, 24]) ∧
    (memRead (patched f24 18 0) 28 2 ∈ [1, 4, 8, 24] ∧ sext32 (memRead (patched f24 18 0) 18 4) ≤ 0) ∧
    (memRead (patched f24 22 0) 28 2 ∈ [1, 4, 8, 24] ∧ sext32 (memRead (patched f24 22 0) 22 4) = 0) := by decide +kernel

/-- Two files that differ at each end of every stretch of unread bytes. -/
theorem witness_UnreadHeaderBytesHaveNoEffect :
    let f := patched (patched (patched (patched (patched (patched (patched f24 6 1) 9 1) 26 7) 34 1) 45 1) 50 1) 69 1
    54 ≤ f24.length ∧ 54 ≤ f.length ∧ f ≠ f24 ∧
      (∀ a < 70, a ≤ 5 ∨ (10 ≤ a ∧ a ≤ 25) ∨ (28 ≤ a ∧ a ≤ 33) ∨ (46 ≤ a ∧ a ≤ 49) → byteAt f24 a = byteAt f a) := by
  decide +kernel

/-! ### Witnesses: PALRD -/

def parsed (f : List Byte) : State := after [.hparse] (loaded f)

/-- The first 66 bytes of F4: the colour table ends with the file. -/
theorem witness_PalrdStoresTheColourTable :
    let s := parsed (f4.take 66)
    s.status.ibufValid = true ∧ s.status.metaValid = true ∧ s.imeta.bpp.toNat ∈ [1, 4, 8] ∧ fileOf s = .ok (f4.take 66) ∧
      14 + s.imeta.hdrsize.toNat + 4 * s.imeta.palcount.toNat ≤ (f4.take 66).length ∧
      fits s.cfg.palCap s.imeta.palcount.toNat = true := by decide +kernel

theorem witness_PalrdRejectsInOrder :
    let s := parsed (f4.take 65)
    let t := tiny (parsed (f4.take 66))
    (s.status.ibufValid = true ∧ s.status.metaValid = true ∧ s.imeta.bpp.toNat ∈ [1, 4, 8] ∧ fileOf s = .ok (f4.take 65) ∧
      (f4.take 65).length < 14 + s.imeta.hdrsize.toNat + 4 * s.imeta.palcount.toNat) ∧
    (t.status.ibufValid = true ∧ t.status.metaValid = true ∧ t.imeta.bpp.toNat ∈ [1, 4, 8] ∧ fileOf t = .ok (f4.take 66) ∧
      14 + t.imeta.hdrsize.toNat + 4 * t.imeta.palcount.toNat ≤ (f4.take 66).length ∧
      fits t.cfg.palCap t.imeta.palcount.toNat = false) := by decide +kernel

theorem witness_PalrdAtDepth24ChangesNothing : (parsed f24).status.ibufValid = true ∧
    (parsed f24).status.metaValid = true ∧ (parsed f24).status.busy = false ∧ (parsed f24).imeta.bpp = 24#16 := by
  decide +kernel

theorem witness_FourthPaletteByteHasNoEffect :
    let m := (parsed f4).imeta
    f4.length = (patched f4 65 9).length ∧ patched f4 65 9 ≠ f4 ∧
      (∀ i < m.palcount.toNat, ∀ k < 3, byteAt f4 (14 + m.hdrsize.toNat + 4 * i + k) =
        byteAt (patched f4 65 9) (14 + m.hdrsize.toNat + 4 * i + k)) := by decide +kernel

/-! ### Witnesses: PXDEC and DECODE -/

def withPalette (f : List Byte) : State := after [.hparse, .palrd] (loaded f)

/-- A grid capacity of exactly the 4 pixels of F24. -/
theorem witness_PxdecDecodesTrueColour :
    let p := parsed f24
    let s := { p with cfg := { p.cfg with gridCap := .atMost 4 } }
    Instr.pxdec24 ∈ pxdecRows ∧ s.status.ibufValid = true ∧ s.status.metaValid = true ∧ s.imeta.bpp.toNat = 24 ∧
      fileOf s = .ok f24 ∧ s.imeta.pixoff.toNat + heightOf s.imeta * storedRow s.imeta.bpp.toNat (widthOf s.imeta) = f24.length ∧
      fits s.cfg.gridCap (widthOf s.imeta * heightOf s.imeta) = true := by decide +kernel

/-- A file of each indexed depth, the whole of it just fitting. -/
theorem witness_PxdecDecodesIndexedColour : ∀ q ∈ [(Instr.pxdec8, f8 [1, 0, 9, 9, 0, 1, 9, 9]), (.pxdec4, f4), (.pxdec1, f1)],
    let s := withPalette q.2
    q.1 ∈ pxdecRows ∧ s.status.ibufValid = true ∧ s.status.metaValid = true ∧ s.status.palValid = true ∧
      s.imeta.bpp.toNat ∈ [8, 4, 1] ∧ fileOf s = .ok q.2 ∧ paletteOf s = .ok (s.pal.map Prod.snd) ∧
      s.imeta.pixoff.toNat + heightOf s.imeta * storedRow s.imeta.bpp.toNat (widthOf s.imeta) = q.2.length ∧
      fits s.cfg.gridCap (widthOf s.imeta * heightOf s.imeta) = true ∧
      (∀ y < heightOf s.imeta, ∀ x < widthOf s.imeta,
        storedIndex s.imeta.bpp.toNat q.2 (storedAt s.imeta y) x < (s.pal.map Prod.snd).length) := by decide +kernel

/-- One byte short; a grid of one pixel more than fits; a bad index after good ones (at the palette's length). -/
theorem witness_PxdecRejectsInOrder :
    let a := parsed (f24.take 69)
    let p := parsed f24
    let b := { p with cfg := { p.cfg with gridCap := .atMost 3 } }
    let f := f8 [1, 0, 9, 9, 1, 2, 9, 9]
    let c := withPalette f
    let pal := c.pal.map Prod.snd
    let row (m : Metadata) (r : Nat) : Nat := m.pixoff.toNat + r * storedRow m.bpp.toNat (widthOf m)
    (Instr.pxdec ∈ pxdecRows ∧ a.status.ibufValid = true ∧ a.status.metaValid = true ∧ a.imeta.bpp.toNat ∈ [24, 8, 4, 1] ∧
      fileOf a = .ok (f24.take 69) ∧ ¬a.imeta.bpp.toNat ≤ 8 ∧ ¬row a.imeta (heightOf a.imeta) ≤ (f24.take 69).length) ∧
    (b.status.metaValid = true ∧ fileOf b = .ok f24 ∧ row b.imeta (heightOf b.imeta) ≤ f24.length ∧
      fits b.cfg.gridCap (widthOf b.imeta * heightOf b.imeta) = false) ∧
    (c.status.ibufValid = true ∧ c.status.metaValid = true ∧ c.status.palValid = true ∧ fileOf c = .ok f ∧
      paletteOf c = .ok pal ∧ c.imeta.bpp.toNat ≤ 8 ∧ row c.imeta (heightOf c.imeta) ≤ f.length ∧
      fits c.cfg.gridCap (widthOf c.imeta * heightOf c.imeta) = true ∧ 1 < heightOf c.imeta ∧ 1 < widthOf c.imeta ∧
      pal.length ≤ storedIndex 8 f (row c.imeta 1) 1 ∧
      (∀ r' < 2, ∀ x' < widthOf c.imeta, (r' < 1 ∨ (r' = 1 ∧ x' < 1)) →
        storedIndex 8 f (row c.imeta r') x' < pal.length)) := by decide +kernel

/-- F4 with its padding nibble and bytes changed. -/
theorem witness_PaddingHasNoEffect :
    let m := (parsed f4).imeta
    let f := patched (patched (patched f4 67 0x20) 68 0) 73 0
    f4.length = f.length ∧ f ≠ f4 ∧ depthOf m.bpp = some .d4 ∧ m.bpp.toNat ≠ 24 ∧
      (∀ r < heightOf m, ∀ x < widthOf m,
        storedIndex m.bpp.toNat f4 (m.pixoff.toNat + r * storedRow m.bpp.toNat (widthOf m)) x =
          storedIndex m.bpp.toNat f (m.pixoff.toNat + r * storedRow m.bpp.toNat (widthOf m)) x) := by decide +kernel

/-- Both outcomes of decoding. -/
theorem witness_ScanDirectionReversesRows :
    let m := (parsed f4).imeta
    ((match decodePixels .inf .d4 { m with topdown := false } [⟨1, 1, 1⟩, ⟨2, 2, 2⟩, ⟨3, 3, 3⟩] f4 with
      | .ok g => decide (g.w = 3)
      | .error _ => false) = true) ∧
    decodePixels .inf .d4 { m with topdown := false } [⟨1, 1, 1⟩] f4 = .error ⟨.paletteIndexOutOfRange, 1⟩ := by
  decide +kernel

theorem witness_DecodeIsItsPartsIssued : (loaded f4).pending = [] ∧ (loaded f4).status.busy = false ∧
    reaches (exec .decode (loaded f4)) (fun t => t.err.code == 0) = true ∧
    reaches (exec .decode (loaded f24)) (fun t => t.err.code == 0) = true := by decide +kernel

/-- Each clause: a bad header, a true-colour one, a bad and a good colour table. -/
theorem witness_DecodeStopsAtTheFirstError :
    reaches (exec .hparse (loaded (f24.take 53))) (fun s => s.err.code != 0) = true ∧
    reaches (exec .hparse (loaded f24)) (fun s => s.err.code == 0 && decide (8 < s.imeta.bpp.toNat)) = true ∧
    reaches (exec .hparse (loaded (f4.take 65))) (fun s => s.err.code == 0 && decide (s.imeta.bpp.toNat ≤ 8) &&
      reaches (exec .palrd s) (fun t => t.err.code != 0)) = true ∧
    reaches (exec .hparse (loaded f4)) (fun s => s.err.code == 0 && decide (s.imeta.bpp.toNat ≤ 8) &&
      reaches (exec .palrd s) (fun t => t.err.code == 0)) = true := by decide +kernel

/-- At depth 4 and at depth 24. -/
theorem witness_DecodeCompletes :
    ((loaded f4).status.ibufValid = true ∧ fileOf (loaded f4) = .ok f4 ∧ parseHeader f4 = .ok (parsed f4).imeta ∧
      depthOf (parsed f4).imeta.bpp = some .d4 ∧ (parsed f4).imeta.bpp.toNat ≤ 8 ∧
      readPalette (loaded f4).cfg.palCap (parsed f4).imeta f4 = .ok ((withPalette f4).pal.map Prod.snd) ∧
      decodePixels (loaded f4).cfg.gridCap .d4 (parsed f4).imeta ((withPalette f4).pal.map Prod.snd) f4 =
        .ok ⟨3, 2, rendered.ogrid.map Prod.snd⟩) ∧
    ((loaded f24).status.ibufValid = true ∧ fileOf (loaded f24) = .ok f24 ∧ parseHeader f24 = .ok (parsed f24).imeta ∧
      depthOf (parsed f24).imeta.bpp = some .d24 ∧ ¬(parsed f24).imeta.bpp.toNat ≤ 8 ∧
      decodePixels (loaded f24).cfg.gridCap .d24 (parsed f24).imeta [] f24 =
        .ok ⟨2, 2, [⟨9, 8, 7⟩, ⟨12, 11, 10⟩, ⟨3, 2, 1⟩, ⟨6, 5, 4⟩]⟩) := by decide +kernel

theorem witness_DecodedDimensionsAreTheHeaders : fileOf (loaded f4) = .ok f4 ∧
    reaches (exec .decode (loaded f4)) (fun t => t.err.code == 0) = true := by decide +kernel

/-! ### Witnesses: XFORM, RESIZE, PPMENC, RENDER -/

theorem witness_ScaleTruncatesThenClamps : fitsField (-32768) = true ∧ (-32768 : Int) ≤ 0 ∧ fitsField 0 = true ∧
    (0 : Int) ≤ 0 := by decide

/-- Multiples of 4 at both ends. -/
theorem witness_TransformIsNotIdempotent : ∀ p ∈ [(⟨252, 0, 200⟩ : RGB)],
    p.r.toNat % 4 = 0 ∧ p.g.toNat % 4 = 0 ∧ p.b.toNat % 4 = 0 := by decide

theorem witness_Binary64DiffersOnTwelvePairs : 150 < 256 ∧ 82 ≤ 100 ∧ 255 < 256 ∧ 100 ≤ 100 := by decide

theorem witness_Binary64IsExactOrOneLess : fitsField 32767 = true ∧ fitsField (-32768) = true := by decide

def decoded4 : State := after [.decode] (loaded f4)

/-- What `XFORM`, `XFORM.ID` and `RENDER` need of OGRID. -/
theorem ogrid_of_decoded4 : decoded4.status.ogridValid = true ∧
    ogridOf decoded4 = .ok ⟨3, 2, decoded4.ogrid.map Prod.snd⟩ := by decide +kernel

theorem witness_XformMasksAndScales : decoded4.status.ogridValid = true ∧
    ogridOf decoded4 = .ok ⟨3, 2, decoded4.ogrid.map Prod.snd⟩ ∧ 5 < decoded4.ogW * decoded4.ogH ∧
    decoded4.ogW * decoded4.ogH ≤ 6 := by decide +kernel

theorem witness_XformIdIsTheIdentity : decoded4.status.ogridValid = true ∧
    ogridOf decoded4 = .ok ⟨3, 2, decoded4.ogrid.map Prod.snd⟩ := ogrid_of_decoded4

theorem witness_XformsDoNotCompose : Memory.wf rendered.tgrid ∧ rendered.status.ogridValid = true ∧
    reaches (exec (.xform 50 true true false) rendered) (fun t => t.err.code == 0) = true := by decide +kernel

theorem witness_ResizeDegenerateIsBlack : (0 : Int) ≤ 0 ∧ (-32768 : Int) ≤ 0 ∧ rendered.status.tgridValid = true := by
  decide +kernel

/-- `rendered` with other capacities of the grids and of OBUF. -/
def withCaps (grid obuf : Nat) : State :=
  { rendered with cfg := { rendered.cfg with gridCap := .atMost grid, obufCap := .atMost obuf } }

/-- 3 by 2 at 150 percent is 4 by 3: 12 pixels fit a capacity of 12 and not one of 11. -/
theorem witness_ResizeMapsNearestNeighbours : ∀ s ∈ [withCaps 12 29, withCaps 11 29],
    1 ≤ 150 ∧ s.status.tgridValid = true ∧ tgridOf s = .ok ⟨3, 2, rendered.tgrid.map Prod.snd⟩ ∧ 1 ≤ s.tgW ∧ 1 ≤ s.tgH ∧
      fits s.cfg.gridCap (max 1 (s.tgW * 150 / 100) * max 1 (s.tgH * 150 / 100)) = decide (s.cfg.gridCap = .atMost 12) := by
  decide +kernel

theorem witness_ResizeStaysInBounds : 1 ≤ 3 ∧ 1 ≤ 150 ∧ 3 < newDim 3 150 ∧ 0 < newDim 1 1 := by decide +kernel

theorem witness_DecimalNumerals : 1 ≤ 640 := by decide

theorem witness_OutputLength : let g : Grid := ⟨1, 10, List.replicate 10 RGB.black⟩
    1 ≤ g.w ∧ 1 ≤ g.h ∧ g.px.length = g.w * g.h := by decide

/-- The image of F4 has 29 bytes: they fit a capacity of 29 and not one of 28. -/
theorem witness_PpmencWritesThePixmap : ∀ s ∈ [withCaps 12 29, withCaps 12 28],
    s.status.rgridValid = true ∧ rgridOf s = .ok ⟨3, 2, rendered.rgrid.map Prod.snd⟩ ∧
      fits s.cfg.obufCap (([0x50#8, 0x36#8, 0x0A#8] ++ dec s.rgW ++ [0x20#8] ++ dec s.rgH ++
        [0x0A#8, 0x32#8, 0x35#8, 0x35#8, 0x0A#8]).length + 3 * s.rgW * s.rgH) = decide (s.cfg.obufCap = .atMost 29) := by
  decide +kernel

theorem witness_RenderCompletes :
    let g : Grid := ⟨3, 2, decoded4.ogrid.map Prod.snd⟩
    let r : Grid := ⟨1, 1, [⟨127, 0, 0⟩]⟩
    decoded4.status.ogridValid = true ∧ ogridOf decoded4 = .ok g ∧
      resize decoded4.cfg.gridCap 50 (transform decoded4.cfg.numerics 50 true true true g) = .ok r ∧
      encodePpm decoded4.cfg.obufCap r = .ok (ppm r) := by decide +kernel

/-- Each kind of input: OGRID right after `DECODE`, TGRID, RGRID. -/
theorem witness_RenderingEndsInCapacityOrInputErrorsOnly :
    decoded4.cfg.gridCap = .inf ∧ decoded4.cfg.obufCap = .inf ∧ rendered.cfg.gridCap = .inf ∧
    rendered.cfg.obufCap = .inf ∧
    (∀ i ∈ [Instr.xform 50 true true true, .xformId, .render 50 true true true 50], i.wf = true ∧ isRendering i = true ∧
      reaches (exec i decoded4) (fun _ => true) = true ∧ ownInput i decoded4 = true) ∧
    (∀ i ∈ [Instr.resize 50, .ppmenc], i.wf = true ∧ isRendering i = true ∧
      reaches (exec i rendered) (fun _ => true) = true ∧ ownInput i rendered = true) := by decide +kernel

def decoded24 : State := after [.decode] (loaded f24)

theorem witness_IdentityPipelineSwapsChannels : fileOf (loaded f24) = .ok f24 ∧
    exec .decode (loaded f24) = .next decoded24 ∧ decoded24.err.code = 0 ∧ decoded24.imeta.bpp.toNat = 24 ∧
    reaches (exec (.render 100 true true true 100) decoded24) (fun t => t.err.code == 0) = true := by
  refine ⟨by decide +kernel, by rfl, by decide +kernel, by decide +kernel, by decide +kernel⟩

/-! ### Witnesses: every run -/

theorem witness_InvAtReset : configOk Config.standard = true ∧
    configOk { ibufCap := .atMost 54, palCap := .atMost 256, gridCap := .atMost 1, obufCap := .atMost 14, numerics := .binary64 } =
      true := by decide

/-- What the invariant says of the registers and flags of `rendered`. -/
theorem rendered_registers :
    let s := rendered
    configOk s.cfg = true ∧ s.status = { Status.zero with
      ibufValid := true, metaValid := true, palValid := true, ogridValid := true, tgridValid := true, rgridValid := true
      obufValid := true } ∧
    s.imeta.bpp = 4 ∧ s.imeta.compression = 0 ∧ s.imeta.width = 3 ∧ s.imeta.height = 2 ∧ s.imeta.palcount = 3 ∧
    s.palLen = 3 ∧ (s.ogW, s.ogH, s.tgW, s.tgH, s.rgW, s.rgH) = (3, 2, 3, 2, 3, 2) ∧ s.ibufLen = 74 ∧ s.obufLen = 29 ∧
    s.err = ⟨0, 0⟩ ∧ s.errInfo = 0 ∧ s.cfg = Config.standard := by decide +kernel

/-- The memories of `rendered` are canonical. -/
theorem rendered_canonical : Memory.wf rendered.ibuf ∧ Memory.wf rendered.pal ∧ Memory.wf rendered.ogrid ∧
    Memory.wf rendered.tgrid ∧ Memory.wf rendered.rgrid ∧ Memory.wf rendered.obuf := by decide +kernel

/-- The memories of `rendered` hold what its registers say. -/
theorem rendered_covered : Memory.covers rendered.ibuf 74 ∧ Memory.covers rendered.pal 3 ∧
    Memory.covers rendered.ogrid 6 ∧ Memory.covers rendered.tgrid 6 ∧ Memory.covers rendered.rgrid 6 ∧
    Memory.covers rendered.obuf 29 := by
  unfold Memory.covers
  decide +kernel

/-- The invariant holds of a state with every valid flag at 1. -/
theorem rendered_inv : Inv rendered := by
  obtain ⟨hc, hs, hb, hz, hw, hh, hn, hp, hd, hi, ho, he, hf, hg⟩ := rendered_registers
  obtain ⟨w1, w2, w3, w4, w5, w6⟩ := rendered_canonical
  obtain ⟨c1, c2, c3, c4, c5, c6⟩ := rendered_covered
  simp only [Prod.mk.injEq] at hd
  obtain ⟨d1, d2, d3, d4, d5, d6⟩ := hd
  have hx : indexed rendered.imeta = true := by simp [indexed, hb]
  have hW : widthOf rendered.imeta = 3 := by simp [widthOf, hw]
  have hH : heightOf rendered.imeta = 2 := by simp [heightOf, hh]
  exact
    { config := hc
      idle := by rw [hs]; rfl
      chained := by constructor <;> simp [hs, hx]
      metaOk := fun _ => by constructor <;> simp [hb, hz, hw, hh, hn]
      fileIn := fun _ => by rw [hi, hg]; exact ⟨rfl, c1⟩
      palLen := fun _ => by rw [hp, hn]
      palIn := fun _ => by rw [hp, hg]; exact ⟨rfl, c2⟩
      ogridDims := fun _ => by rw [hW, hH]; exact ⟨d1, d2⟩
      ogridIn := fun _ => by rw [d1, d2, hg]; exact ⟨by decide, by decide, rfl, c3⟩
      tgridDims := fun _ => by rw [d1, d2]; exact ⟨d3, d4⟩
      tgridIn := fun _ => by rw [d3, d4, hg]; exact ⟨by decide, by decide, rfl, c4⟩
      rgridIn := fun _ => by rw [d5, d6, hg]; exact ⟨by decide, by decide, rfl, c5⟩
      obufIn := fun _ => by rw [d5, d6, hg, ho]; exact ⟨by decide, rfl, c6⟩
      canonicalIbuf := w1
      canonicalPal := w2
      canonicalOgrid := w3
      canonicalTgrid := w4
      canonicalRgrid := w5
      canonicalObuf := w6
      errOk := by constructor <;> simp [he, hf] }

/-- The invariant says nothing of the host's actions to come. -/
theorem pending_inv {s : State} (h : Inv s) (l : List HostAction) : Inv { s with pending := l } :=
  { h with errOk := ⟨h.errOk.codeMax, h.errOk.stageMax, h.errOk.success, h.errOk.seen⟩ }

theorem todo_inv {s : State} (h : Inv s) (a : HostAction) : Inv (todo a s) := pending_inv h _

theorem witness_StepKeepsInv : Inv (todo (.issue 0x0500FFFB#32) rendered) ∧
    reaches (step (todo (.issue 0x0500FFFB#32) rendered)) (fun t => statusOf t == 0x07E) = true :=
  ⟨todo_inv rendered_inv _, by decide +kernel⟩

theorem witness_StepGoesOn : Inv (todo (.loadbuf f24) rendered) ∧ canStep (todo (.loadbuf f24) rendered) = true :=
  ⟨todo_inv rendered_inv _, by decide +kernel⟩

theorem witness_EveryInstructionAnswersAState : (Instr.render (-1) true false true 32767).wf = true ∧ Inv rendered :=
  ⟨by decide, rendered_inv⟩

/-- What `rendered` holds, unit by unit. -/
theorem rendered_values :
    let g : Grid := ⟨3, 2, rendered.ogrid.map Prod.snd⟩
    let pal := rendered.pal.map Prod.snd
    fileOf rendered = .ok f4 ∧ parseHeader f4 = .ok rendered.imeta ∧ paletteOf rendered = .ok pal ∧
      readPalette .inf rendered.imeta f4 = .ok pal ∧ decodePixels .inf .d4 rendered.imeta pal f4 = .ok g ∧
      ogridOf rendered = .ok g ∧ tgridOf rendered = .ok (transform .exact 100 true true true g) ∧
      rgridOf rendered = .ok g ∧ resize .inf 100 (transform .exact 100 true true true g) = .ok g ∧
      imageOf rendered = .ok (ppm g) := by decide +kernel

/-- No result of `rendered` is stale. -/
theorem rendered_fresh : Fresh rendered := by
  obtain ⟨h1, h2, h3, h4, h5, h6, h7, h8, h9, h10⟩ := rendered_values
  obtain ⟨-, -, hb, -, -, -, -, -, -, -, -, -, -, hg⟩ := rendered_registers
  have hd : depthOf rendered.imeta.bpp = some .d4 := by rw [hb]; decide
  constructor <;> intro _
  · exact ⟨_, h1, h2⟩
  · exact ⟨_, _, h1, h3, by rw [hg]; exact h4⟩
  · exact ⟨_, _, _, _, h1, hd, h3, h6, by rw [hg]; exact h5⟩
  · exact ⟨_, 100, true, true, true, h6, by decide, by rw [hg]; exact h7⟩
  · exact ⟨_, _, 100, h7, by decide, h8, by rw [hg]; exact h9⟩
  · exact ⟨_, h8, h10⟩

theorem witness_ValidResultsAreFresh : Inv rendered ∧ Fresh rendered ∧ reaches (step rendered) (fun _ => true) = true :=
  ⟨rendered_inv, rendered_fresh, by decide +kernel⟩

/-- Two different states a host cannot tell apart: what lies behind flags of 0, and beyond a file's end, differs. -/
theorem witness_UnspecifiedStateIsUnobservable :
    let s := loaded (bytes [1, 2])
    let t := { s with ogW := 7, ogrid := [(0, ⟨1, 2, 3⟩)], ibuf := Memory.write s.ibuf 2 5#8 }
    SameToHost s t ∧ s ≠ t := by
  refine ⟨?_, by decide +kernel⟩
  constructor <;> try rfl
  case ibuf => intro _; unfold Memory.sameBelow; decide +kernel
  all_goals first | exact fun _ => rfl | exact fun h => absurd h (by decide +kernel)

theorem witness_ReissueChangesNothing : (Instr.render 50 true true true 50).wf = true ∧ Inv rendered ∧
    reaches (exec (.render 50 true true true 50) rendered) (fun _ => true) = true :=
  ⟨by decide, rendered_inv, by decide +kernel⟩

theorem witness_ReissueChangesNothing_words :
    let s := fun w : Word => { rendered with pending := [.issue w, .issue w, .readReg 1] }
    (∀ w, Inv (s w) ∧ (s w).pending = .issue w :: .issue w :: [.readReg 1]) ∧
    reaches (step (s 0x04070064#32)) (fun t => statusOf t == 0x03E) = true ∧
    reaches (step (s 0#32)) (fun t => errOf t == (0x0008, 0)) = true :=
  ⟨fun _ => ⟨pending_inv rendered_inv _, rfl⟩, by decide +kernel, by decide +kernel⟩

/-! ### Generations (R71, log 17) -/

/-- A `RESIZE` to other dimensions renews RGRID; the same word once more renews nothing (R71). -/
theorem test_generations :
    let half := after [.resize 50] rendered
    renew rendered half = { half with gens := { half.gens with rgrid := 1 } } ∧
    renew half (after [.resize 50] half) = half := by decide +kernel

end Sys2Proof.Tests
end

/-! ## The invariant of every run

`Inv` is proved operation by operation: the ways a command ends, the clearing of flags, the storing of a result. Each
stage is a short walk along its `…_cases` lemma, and `exec_keeps` and `perform_cases` carry the invariant to a step. -/

namespace Sys2Proof.Machine

variable {s t : State}

/-! ### Ending a command (R98, R272) -/

theorem errorCode_ne_zero (k : ErrorKind) : errorCode k ≠ 0 := by cases k <;> decide

theorem errorCode_toNat_le (k : ErrorKind) : (errorCode k).toNat ≤ 8 := by cases k <;> decide

theorem errOk_succeed (s : State) : ErrOk (succeed s) where
  codeMax := by simp
  stageMax := by simp
  success := by simp
  seen := by simp

theorem errOk_takeError (e : Raise) {stage : BitVec 4} (hk : stage.toNat ≤ 6) (s : State) :
    ErrOk (takeError e stage s) where
  codeMax := errorCode_toNat_le e.kind
  stageMax := hk
  success := fun h => absurd h (errorCode_ne_zero e.kind)
  seen := fun _ => takeError_status_errSeen e stage s

theorem inv_succeed (h : Inv s) : Inv (succeed s) :=
  { h with
    idle := rfl
    chained := { h.chained with }
    errOk := errOk_succeed s }

theorem inv_takeError (h : Inv s) (e : Raise) {stage : BitVec 4} (hk : stage.toNat ≤ 6) :
    Inv (takeError e stage s) :=
  { h with
    idle := rfl
    chained := { h.chained with }
    errOk := errOk_takeError e hk s }

/-! ### Clearing flags (R41)

Each clearing is the one after it in the chain with one more flag at 0. -/

theorem inv_startWith_clearObuf (h : Inv s) : Inv (startWith clearObuf s) :=
  { h with
    chained := { h.chained with obufNeedsRgrid := nofun }
    obufIn := nofun
    errOk := { h.errOk with } }

theorem inv_startWith_clearRgrid (h : Inv s) : Inv (startWith clearRgrid s) :=
  have h' := inv_startWith_clearObuf h
  { h' with
    chained := { h'.chained with rgridNeedsTgrid := nofun, obufNeedsRgrid := nofun }
    rgridIn := nofun
    errOk := { h'.errOk with } }

theorem inv_startWith_clearTgrid (h : Inv s) : Inv (startWith clearTgrid s) :=
  have h' := inv_startWith_clearRgrid h
  { h' with
    chained := { h'.chained with tgridNeedsOgrid := nofun, rgridNeedsTgrid := nofun }
    tgridDims := nofun
    tgridIn := nofun
    errOk := { h'.errOk with } }

theorem inv_startWith_clearOgrid (h : Inv s) : Inv (startWith clearOgrid s) :=
  have h' := inv_startWith_clearTgrid h
  { h' with
    chained := { h'.chained with ogridNeedsMeta := nofun, ogridNeedsPal := nofun, tgridNeedsOgrid := nofun }
    ogridDims := nofun
    ogridIn := nofun
    errOk := { h'.errOk with } }

theorem inv_startWith_clearPal (h : Inv s) : Inv (startWith clearPal s) :=
  have h' := inv_startWith_clearOgrid h
  { h' with
    chained := { h'.chained with palNeedsMeta := nofun, ogridNeedsPal := nofun }
    palLen := nofun
    palIn := nofun
    errOk := { h'.errOk with } }

theorem inv_startWith_clearMeta (h : Inv s) : Inv (startWith clearMeta s) :=
  have h' := inv_startWith_clearPal h
  { h' with
    chained := { h'.chained with metaNeedsIbuf := nofun, palNeedsMeta := nofun, ogridNeedsMeta := nofun }
    metaOk := nofun
    errOk := { h'.errOk with } }

/-! ### Storing a result (R98 step 5)

A stored result is as `Inv` asks, its inputs are valid, and what depends on the registers it overwrites is not. -/

/-- A grid with as many pixels as its dimensions say is whole once it is written from address 0. -/
theorem gridOk_writeAll {cap : Capacity} (m : Memory RGB) {g : Grid} (hw : 1 ≤ g.w) (hh : 1 ≤ g.h)
    (hcap : fits cap (g.w * g.h) = true) (hpx : g.px.length = g.w * g.h) :
    GridOk cap (Memory.writeAll m 0 g.px) g.w g.h :=
  ⟨hw, hh, hcap, covers_writeAll m g.px hpx.symm⟩

theorem inv_storeMeta (h : Inv s) {m : Metadata} (hm : MetaOk m) (hibuf : s.status.ibufValid = true)
    (hpal : s.status.palValid = false) (hogrid : s.status.ogridValid = false) : Inv (storeMeta m s) :=
  have noPal {P : Prop} (hv : s.status.palValid = true) : P := by simp [hpal] at hv
  have noOgrid {P : Prop} (hv : s.status.ogridValid = true) : P := by simp [hogrid] at hv
  { h with
    chained :=
      { h.chained with
        metaNeedsIbuf := fun _ => hibuf
        palNeedsMeta := noPal
        ogridNeedsMeta := noOgrid
        ogridNeedsPal := noOgrid }
    metaOk := fun _ => hm
    palLen := noPal
    ogridDims := noOgrid
    errOk := { h.errOk with } }

theorem inv_storePal (h : Inv s) {p : List RGB} (hmeta : s.status.metaValid = true) (hi : indexed s.imeta = true)
    (hlen : p.length = s.imeta.palcount.toNat) (hcap : fits s.cfg.palCap p.length = true) : Inv (storePal p s) :=
  have hreg : (storePal p s).palLen = s.imeta.palcount := by simp [hlen]
  have hnum : (storePal p s).palLen.toNat = p.length := by rw [hreg, hlen]
  { h with
    chained := { h.chained with palNeedsMeta := fun _ => ⟨hmeta, hi⟩, ogridNeedsPal := fun _ _ => rfl }
    palLen := fun _ => hreg
    palIn := fun _ => ⟨hnum ▸ hcap, covers_writeAll s.pal p hnum⟩
    canonicalPal := wf_writeAll p h.canonicalPal 0
    errOk := { h.errOk with } }

theorem inv_storeOgrid (h : Inv s) {g : Grid} (hmeta : s.status.metaValid = true)
    (hpal : indexed s.imeta = true → s.status.palValid = true)
    (htgrid : s.status.tgridValid = false) (hw : g.w = widthOf s.imeta) (hh : g.h = heightOf s.imeta)
    (hcap : fits s.cfg.gridCap (g.w * g.h) = true) (hpx : g.px.length = g.w * g.h) : Inv (storeOgrid g s) :=
  have noTgrid {P : Prop} (hv : s.status.tgridValid = true) : P := by simp [htgrid] at hv
  have hwpos : 1 ≤ g.w := by
    have := (h.metaOk hmeta).widthPos
    rw [hw, widthOf]
    omega
  have hhpos : 1 ≤ g.h := hh ▸ (h.metaOk hmeta).heightPos
  { h with
    chained :=
      { h.chained with
        ogridNeedsMeta := fun _ => hmeta
        ogridNeedsPal := fun _ => hpal
        tgridNeedsOgrid := fun _ => rfl }
    ogridDims := fun _ => ⟨hw, hh⟩
    ogridIn := fun _ => gridOk_writeAll s.ogrid hwpos hhpos hcap hpx
    tgridDims := noTgrid
    canonicalOgrid := wf_writeAll g.px h.canonicalOgrid 0
    errOk := { h.errOk with } }

theorem inv_storeTgrid (h : Inv s) {g : Grid} (hogrid : s.status.ogridValid = true) (hw : g.w = s.ogW)
    (hh : g.h = s.ogH) (hpx : g.px.length = g.w * g.h) : Inv (storeTgrid g s) :=
  have ho := h.ogridIn hogrid
  { h with
    chained := { h.chained with tgridNeedsOgrid := fun _ => hogrid, rgridNeedsTgrid := fun _ => rfl }
    tgridDims := fun _ => ⟨hw, hh⟩
    tgridIn := fun _ =>
      gridOk_writeAll s.tgrid (hw ▸ ho.widthPos) (hh ▸ ho.heightPos) (hw ▸ hh ▸ ho.inCapacity) hpx
    canonicalTgrid := wf_writeAll g.px h.canonicalTgrid 0
    errOk := { h.errOk with } }

theorem inv_storeRgrid (h : Inv s) {g : Grid} (htgrid : s.status.tgridValid = true)
    (hobuf : s.status.obufValid = false) (hw : 1 ≤ g.w) (hh : 1 ≤ g.h)
    (hcap : fits s.cfg.gridCap (g.w * g.h) = true) (hpx : g.px.length = g.w * g.h) : Inv (storeRgrid g s) :=
  have noObuf {P : Prop} (hv : s.status.obufValid = true) : P := by simp [hobuf] at hv
  { h with
    chained := { h.chained with rgridNeedsTgrid := fun _ => htgrid, obufNeedsRgrid := fun _ => rfl }
    rgridIn := fun _ => gridOk_writeAll s.rgrid hw hh hcap hpx
    obufIn := noObuf
    canonicalRgrid := wf_writeAll g.px h.canonicalRgrid 0
    errOk := { h.errOk with } }

theorem inv_storeObuf (h : Inv s) {l : List Byte} (hrgrid : s.status.rgridValid = true)
    (hlen : l.length = ppmLength s.rgW s.rgH) (hcap : fits s.cfg.obufCap l.length = true) : Inv (storeObuf l s) :=
  { h with
    chained := { h.chained with obufNeedsRgrid := fun _ => hrgrid }
    obufIn := fun _ => ⟨hlen, hcap, covers_writeAll s.obuf l rfl⟩
    canonicalObuf := wf_writeAll l h.canonicalObuf 0
    errOk := { h.errOk with } }

/-! ### The six stages -/

/-- R11: `GRID_CAP` is at least 1, so the grid of `RESIZE` at a percentage not above 0 always fits (R222). -/
theorem gridCap_fits_one (h : Inv s) : fits s.cfg.gridCap 1 = true := by
  have hc := h.config
  simp only [configOk, Bool.and_eq_true] at hc
  obtain ⟨⟨-, hgrid⟩, -⟩ := hc
  exact hgrid

theorem resize_inCapacity {cap : Capacity} {p : Int} {g r : Grid} (hp : 0 < p) (h : resize cap p g = .ok r) :
    fits cap (r.w * r.h) = true := by
  rcases resize_ok h with ⟨hle, -⟩ | ⟨-, rfl, hcap⟩
  · omega
  · exact hcap

theorem hparse_keeps_inv (h : Inv s) (hx : hparseCommand s = .next t) : Inv t := by
  have hstart := inv_startWith_clearMeta h
  rcases hparse_cases hx with ⟨bit, -, rfl⟩ | ⟨hibuf, buf, -, ⟨m, hm, rfl⟩ | ⟨e, -, rfl⟩⟩
  · exact inv_takeError h _ (by decide)
  · exact inv_succeed (inv_storeMeta hstart (parseHeader_metaOk hm) hibuf rfl rfl)
  · exact inv_takeError hstart e (by decide)

theorem palrd_keeps_inv (h : Inv s) (hx : palrdCommand s = .next t) : Inv t := by
  have hstart := inv_startWith_clearPal h
  rcases palrd_cases hx with
    ⟨bit, -, rfl⟩ | ⟨-, hmeta, ⟨-, rfl⟩ | ⟨hi, buf, -, ⟨p, hp, rfl⟩ | ⟨e, -, rfl⟩⟩⟩
  · exact inv_takeError h _ (by decide)
  · exact inv_succeed h
  · obtain ⟨-, hlen, hcap, -⟩ := readPalette_ok hp
    exact inv_succeed (inv_storePal hstart hmeta hi hlen (hlen ▸ hcap))
  · exact inv_takeError hstart e (by decide)

theorem pxdec_keeps_inv (h : Inv s) (hx : pxdecCommand s = .next t) : Inv t := by
  have hstart := inv_startWith_clearOgrid h
  rcases pxdec_cases hx with
    ⟨bit, -, rfl⟩ | ⟨-, hmeta, hpal, d, pal, buf, -, -, -, ⟨g, hg, rfl⟩ | ⟨e, -, rfl⟩⟩
  · exact inv_takeError h _ (by decide)
  · obtain ⟨hw, hh, hpx⟩ := decodePixels_dims hg
    obtain ⟨-, hcap, -⟩ := decodePixels_ok hg
    rw [← hw, ← hh] at hcap hpx
    exact inv_succeed (inv_storeOgrid hstart hmeta hpal rfl hw hh hcap hpx)
  · exact inv_takeError hstart e (by decide)

theorem xform_keeps_inv {b : Int} {er eg eb : Bool} (h : Inv s) (hx : xformCommand b er eg eb s = .next t) :
    Inv t := by
  have hstart := inv_startWith_clearTgrid h
  rcases xform_cases hx with ⟨bit, -, rfl⟩ | ⟨hogrid, g, hg, rfl⟩
  · exact inv_takeError h _ (by decide)
  · obtain ⟨hw, hh, hpx, -⟩ := gridOf_ok hg
    exact inv_succeed (inv_storeTgrid hstart hogrid hw hh (by simp [hpx, hw, hh]))

theorem resize_keeps_inv {p : Int} (h : Inv s) (hx : resizeCommand p s = .next t) : Inv t := by
  have hstart := inv_startWith_clearRgrid h
  rcases resize_cases hx with
    ⟨bit, -, rfl⟩ | ⟨htgrid, ⟨-, rfl⟩ | ⟨hp, g, -, ⟨r, hr, rfl⟩ | ⟨e, -, rfl⟩⟩⟩
  · exact inv_takeError h _ (by decide)
  · exact inv_succeed (inv_storeRgrid hstart htgrid rfl Nat.le.refl Nat.le.refl (gridCap_fits_one hstart) rfl)
  · obtain ⟨hw, hh, hpx⟩ := resize_shape hr
    exact inv_succeed (inv_storeRgrid hstart htgrid rfl hw hh (resize_inCapacity hp hr) hpx)
  · exact inv_takeError hstart e (by decide)

theorem ppmenc_keeps_inv (h : Inv s) (hx : ppmencCommand s = .next t) : Inv t := by
  have hstart := inv_startWith_clearObuf h
  rcases ppmenc_cases hx with ⟨bit, -, rfl⟩ | ⟨hrgrid, g, hg, ⟨l, hl, rfl⟩ | ⟨e, -, rfl⟩⟩
  · exact inv_takeError h _ (by decide)
  · obtain ⟨hw, hh, hpx, -⟩ := gridOf_ok hg
    obtain ⟨rfl, hcap⟩ := encodePpm_ok hl
    have hlen : (ppm g).length = ppmLength g.w g.h := ppm_length (by rw [hpx, hw, hh])
    exact inv_succeed (inv_storeObuf hstart hrgrid (hw ▸ hh ▸ hlen) (hlen ▸ hcap))
  · exact inv_takeError hstart e (by decide)

/-- Every instruction is made of the six stages, so it keeps what they keep. -/
theorem exec_keeps_inv {i : Instr} (hi : i.wf = true) (h : Inv s) (hx : exec i s = .next t) : Inv t :=
  exec_keeps hparse_keeps_inv palrd_keeps_inv pxdec_keeps_inv (fun _ => xform_keeps_inv) (fun _ => resize_keeps_inv)
    ppmenc_keeps_inv hi h hx

/-! ### Reset and the host's side -/

theorem inv_resetOf {c : Config} (hc : configOk c = true) : Inv (State.resetOf c) where
  config := hc
  idle := rfl
  chained := ⟨nofun, nofun, nofun, nofun, nofun, nofun, nofun⟩
  metaOk := nofun
  fileIn := nofun
  palLen := nofun
  palIn := nofun
  ogridDims := nofun
  ogridIn := nofun
  tgridDims := nofun
  tgridIn := nofun
  rgridIn := nofun
  obufIn := nofun
  canonicalIbuf := .nil
  canonicalPal := .nil
  canonicalOgrid := .nil
  canonicalTgrid := .nil
  canonicalRgrid := .nil
  canonicalObuf := .nil
  errOk := ⟨Nat.zero_le _, Nat.zero_le _, fun _ => ⟨rfl, rfl⟩, fun h => absurd rfl h⟩

/-- The invariant says nothing of the host's queue, of what it has read and of the model's counts. -/
theorem inv_hostSide (h : Inv s) (p : List HostAction) (d : Option HostData) (n : Nat) (g : Generations) :
    Inv { s with pending := p, hostData := d, freeCount := n, gens := g } :=
  { h with errOk := { h.errOk with } }

theorem inv_loadFile (h : Inv s) {bytes : List Byte} (hcap : fits s.cfg.ibufCap bytes.length = true) :
    Inv (loadFile bytes s) :=
  have h' := inv_startWith_clearMeta h
  { h' with
    chained := { h'.chained with metaNeedsIbuf := nofun }
    fileIn := fun _ => ⟨hcap, covers_writeAll s.ibuf bytes rfl⟩
    canonicalIbuf := wf_writeAll bytes h.canonicalIbuf 0
    errOk := { h'.errOk with } }

/-! ### A step -/

theorem perform_keeps_inv {a : HostAction} (h : Inv s) (hx : perform a s = .next t) : Inv t := by
  rcases perform_cases hx with
    ⟨bytes, -, -, hcap, rfl⟩ | ⟨d, n, rfl⟩ | ⟨rfl, -⟩ | ⟨w, i, u, -, -, hi, hu, rfl⟩ | ⟨w, r, -, -, -, rfl⟩ | ⟨-, rfl⟩
  · exact inv_hostSide (inv_loadFile h hcap) ..
  · exact inv_hostSide h ..
  · exact h
  · exact inv_hostSide (exec_keeps_inv (decode_wf hi) h hu) ..
  · exact inv_takeError h _ (by decide)
  · exact inv_hostSide (inv_resetOf h.config) ..

theorem step_keeps_inv (h : Inv s) (hx : step s = .next t) : Inv t := by
  rcases step_cases hx with ⟨-, rfl⟩ | ⟨a, rest, -, ha⟩
  · exact h
  · exact perform_keeps_inv (inv_hostSide h rest ..) ha

/-- Settles O54: a step is no change or a host action, and each of these keeps the invariant. -/
theorem stepKeepsInv : Obligations.StepKeepsInv := by
  unfold Obligations.StepKeepsInv
  exact fun _ _ => step_keeps_inv

/-- Settles O53: every valid flag is 0 after reset, and the memories are empty. -/
theorem invAtReset : Obligations.InvAtReset := by
  unfold Obligations.InvAtReset
  exact fun _ => inv_resetOf

/-! ### Little-endian fields (R61, R62) -/

theorem memRead_two (buf : List Byte) (a : Nat) :
    memRead buf a 2 = (byteAt buf a).toNat + 256 * (byteAt buf (a + 1)).toNat := by
  simp [memRead]

theorem memRead_four (buf : List Byte) (a : Nat) :
    memRead buf a 4 = (byteAt buf a).toNat + 256 * (byteAt buf (a + 1)).toNat +
      256 ^ 2 * (byteAt buf (a + 2)).toNat + 256 ^ 3 * (byteAt buf (a + 3)).toNat := by
  simp only [memRead]
  ring

theorem sext32_of_lt {v : Nat} (h : v < 2 ^ 31) : sext32 v = v := if_pos h

theorem sext32_of_ge {v : Nat} (h : 2 ^ 31 ≤ v) : sext32 v = (v : Int) - 2 ^ 32 := if_neg (Nat.not_lt.2 h)

/-- Settles O19: `memRead` unfolded byte by byte, and the two branches of `sext32`. -/
theorem fieldsAreLittleEndian : Obligations.FieldsAreLittleEndian := by
  unfold Obligations.FieldsAreLittleEndian
  exact fun buf a => ⟨memRead_two buf a, memRead_four buf a, sext32_of_lt, sext32_of_ge⟩

end Sys2Proof.Machine

/-! ## Steps of the host, the words of an instruction, and what every run keeps

First what the two sides of a step do: the words of an instruction decode to the commands it stands for, and a host read
changes nothing of CORE. Then the six stages are evaluated once, and the properties of every run are walks along
them. -/

namespace Sys2Proof.Machine

variable {s t : State}

/-! ### Decoding the words of an instruction (R91 to R93, R100) -/

theorem immField_append (hi : BitVec 16) {v : Int} (h : fitsField v = true) : immField (hi ++ immBits v) = v := by
  obtain ⟨hlo, hup⟩ := of_decide_eq_true h
  rw [immField, BitVec.extractLsb'_append_eq_right]
  exact BitVec.toInt_ofInt_eq_self (by decide) (by omega) (by omega)

/-- The upper half of a word of format X (R92). -/
def formatXTop (er eg eb : Bool) : BitVec 16 :=
  0x04#8 ++ (0 : BitVec 5) ++ BitVec.ofBool er ++ BitVec.ofBool eg ++ BitVec.ofBool eb

theorem formatXTop_fields : ∀ er eg eb : Bool, (formatXTop er eg eb).extractLsb' 3 5 = 0 ∧
    (formatXTop er eg eb).getLsbD 2 = er ∧ (formatXTop er eg eb).getLsbD 1 = eg ∧
    (formatXTop er eg eb).getLsbD 0 = eb := by decide

theorem decode_encodeX {b : Int} (er eg eb : Bool) (h : fitsField b = true) :
    decode (encodeX b er eg eb) = .ok (.xform b er eg eb) := by
  obtain ⟨hz, hr, hg, hb⟩ := formatXTop_fields er eg eb
  have hzero : zeroX (encodeX b er eg eb) = 0 :=
    (Laws.AssignedOpcode.extract_upper (formatXTop er eg eb) (immBits b) 3 5).trans hz
  have himm : immField (encodeX b er eg eb) = b := immField_append (formatXTop er eg eb) h
  have hbit (k : Nat) : (encodeX b er eg eb).getLsbD (16 + k) = (formatXTop er eg eb).getLsbD k :=
    (BitVec.getLsbD_append (x := formatXTop er eg eb) (y := immBits b) (i := 16 + k)).trans (by simp)
  have hdec : decode (encodeX b er eg eb) = decodeX (encodeX b er eg eb) := by
    simp [decode, Laws.AssignedOpcode.opcField_encodeX]
  rw [hdec, decodeX, if_pos hzero, himm, (hbit 2).trans hr, (hbit 1).trans hg, (hbit 0).trans hb]

theorem decode_encodeS {p : Int} (h : fitsField p = true) : decode (encodeS p) = .ok (.resize p) := by
  have hzero : zeroS (encodeS p) = 0 :=
    (Laws.AssignedOpcode.extract_upper (0x05#8 ++ (0 : BitVec 8)) (immBits p) 0 8).trans (by decide)
  have himm : immField (encodeS p) = p := immField_append _ h
  simp [decode, decodeS, Laws.AssignedOpcode.opcField_encodeS, hzero, himm]

/-- The words of an instruction decode, one by one, to the commands it stands for. -/
theorem encode_map_decode {i : Instr} (hi : i.wf = true) : (encode i).map decode = i.expand.map Except.ok := by
  cases i with
  | hparse => decide
  | palrd => decide
  | pxdec => decide
  | pxdec24 => decide
  | pxdec8 => decide
  | pxdec4 => decide
  | pxdec1 => decide
  | ppmenc => decide
  | decode => decide
  | xform b er eg eb => simp [encode, Instr.expand, decode_encodeX er eg eb hi]
  | resize p => simp [encode, Instr.expand, decode_encodeS hi]
  | xformId => simp [encode, Instr.expand, decode_encodeX true true true (show fitsField 100 = true by decide)]
  | render b er eg eb p =>
    obtain ⟨hb, hp⟩ := Bool.and_eq_true_iff.1 hi
    have hn : decode (encodeN 0x06#8) = .ok .ppmenc := by decide
    simp [encode, Instr.expand, decode_encodeX er eg eb hb, decode_encodeS hp, hn]

/-! ### Issuing words (R47, R122) -/

/-- An accepted word that decodes runs its command in the state without that action (R47, R78). -/
theorem step_legal {w : Word} {i : Instr} {rest : List HostAction} (hp : s.pending = .issue w :: rest)
    (hb : s.status.busy = false) (hd : decode w = .ok i) :
    step s = andThen (exec i { s with pending := rest }) fun t => .next (renew { s with pending := rest } t) :=
  (step_cons hp).trans (perform_issue (s := { s with pending := rest }) hb hd)

/-- An accepted word that does not decode ends at once (R96). -/
theorem step_illegal {w : Word} {r : Reject} {rest : List HostAction} (hp : s.pending = .issue w :: rest)
    (hb : s.status.busy = false) (hd : decode w = .error r) :
    step s = .next (illegalCommand w { s with pending := rest }) :=
  (step_cons hp).trans (perform_illegal (s := { s with pending := rest }) hb hd)

/-- The commands one after the other, each whatever became of the one before. -/
def execAll (is : List Instr) (s : State) : Result :=
  match is with
  | [] => .next s
  | i :: rest => andThen (exec i s) (execAll rest)

@[simp] theorem andThen_pure (r : Result) : andThen r Host.Outcome.next = r := by cases r <;> rfl

theorem andThen_assoc (r : Result) (f g : State → Result) :
    andThen (andThen r f) g = andThen r fun s => andThen (f s) g := by cases r <;> rfl

theorem andThen_congr {r : Result} {f g : State → Result} (h : ∀ u, r = .next u → f u = g u) :
    andThen r f = andThen r g := by
  cases r with
  | next u => exact h u rfl
  | fault f => rfl
  | refused f => rfl

/-- An instruction means what the commands it stands for mean, one after the other. -/
theorem execAll_expand (i : Instr) (s : State) : execAll i.expand s = exec i s := by
  cases i with
  | render b er eg eb p => simp [Instr.expand, execAll, exec, execXform, execResize, execPpmenc, execRender]
  | xformId => exact andThen_pure _
  | hparse => exact andThen_pure _
  | palrd => exact andThen_pure _
  | pxdec => exact andThen_pure _
  | pxdec24 => exact andThen_pure _
  | pxdec8 => exact andThen_pure _
  | pxdec4 => exact andThen_pure _
  | pxdec1 => exact andThen_pure _
  | xform b er eg eb => exact andThen_pure _
  | resize p => exact andThen_pure _
  | ppmenc => exact andThen_pure _
  | decode => exact andThen_pure _

/-- A framed command ends with `BUSY` at 0 (R43, R98). -/
theorem frame_idle {missing : Option Nat} {start : State → State} {k : BitVec 4} {work : State → StageEnd}
    (h : frame missing start k work s = .next t) : t.status.busy = false := by
  rcases frame_next_iff.1 h with ⟨bit, -, rfl⟩ | ⟨-, ⟨u, -, rfl⟩ | ⟨e, -, rfl⟩⟩ <;> rfl

/-- Every command ends with `BUSY` at 0 (R43). -/
theorem exec_idle {i : Instr} (hi : i.wf = true) (h : exec i s = .next t) : t.status.busy = false :=
  exec_relation (R := fun _ b => b.status.busy = false) (fun _ h => h) frame_idle frame_idle frame_idle
    (fun _ => frame_idle) (fun _ => frame_idle) frame_idle hi h

/-- Issuing a word is its command, the word taken from the queue and generations renewed. -/
theorem step_issue {w : Word} {i : Instr} (rest : List HostAction) (g : Generations)
    (hb : s.status.busy = false) (hd : decode w = .ok i) :
    step (beside (.issue w :: rest) g s) =
      andThen (exec i s) fun t => .next (beside rest (nextGens (beside rest g s) (beside rest g t)) t) := by
  refine (step_legal (s := beside (.issue w :: rest) g s) rfl hb hd).trans ?_
  refine Eq.trans (congrArg (andThen · _) (exec_beside rest g s i)) ?_
  rw [andThen_assoc]
  rfl

/-- Issuing words that decode to commands runs these, whatever generations the steps leave. -/
theorem steps_issue (g' : Generations) {ws : List Word} {is : List Instr} (g : Generations)
    (h : ws.map decode = is.map Except.ok) (hb : s.status.busy = false) :
    andThen (steps ws.length (beside (ws.map HostAction.issue) g s)) (fun t => .next { t with gens := g' }) =
      andThen (execAll is s) fun t => .next (beside [] g' t) := by
  induction ws generalizing is s g with
  | nil =>
    cases is with
    | nil => rfl
    | cons i is => simp at h
  | cons w ws ih =>
    cases is with
    | nil => simp at h
    | cons i is =>
      obtain ⟨hd, hrest⟩ := List.cons.inj h
      rw [List.map_cons, List.length_cons, steps_succ, step_issue _ g hb hd, execAll, andThen_assoc, andThen_assoc,
        andThen_assoc]
      exact andThen_congr fun u hu => ih _ hrest (exec_idle (decode_wf hd) hu)

/-- Settles O7: the words decode to the commands the instruction stands for, each step is one of these, and no meaning
looks at the queue or the generations. -/
theorem issuingTheWordsRunsTheInstruction : Obligations.IssuingTheWordsRunsTheInstruction := by
  unfold Obligations.IssuingTheWordsRunsTheInstruction
  intro i s hi hp hb
  have hrun := steps_issue s.gens s.gens (encode_map_decode hi) hb
  rw [execAll_expand, ← exec_beside] at hrun
  rw [← hp, beside_self] at hrun
  exact hrun

end Sys2Proof.Machine

/-! ## The six stages evaluated

`…_cases` say what a stage can have answered; the lemmas here say what it does answer from the values it reads, and
that what a stage stores is read back. -/

namespace Sys2Proof.Machine

variable {s t : State}

/-- How a stage ends once its pseudocode has given a result or an error (R98 steps 5 and 6). -/
def finish {β : Type} (stage : BitVec 4) (store : β → State → State) (r : Except Raise β) (u : State) : State :=
  match r with
  | .ok y => succeed (store y u)
  | .error e => takeError e stage u

@[simp] theorem finish_ok {β : Type} (k : BitVec 4) (store : β → State → State) (y : β) (u : State) :
    finish k store (.ok y) u = succeed (store y u) := rfl

@[simp] theorem finish_error {β : Type} (k : BitVec 4) (store : β → State → State) (e : Raise) (u : State) :
    finish k store (.error e) u = takeError e k u := rfl

theorem frame_of_missing {missing : Option Nat} {bit : Nat} (h : missing = some bit) (start : State → State)
    (k : BitVec 4) (work : State → StageEnd) (s : State) :
    frame missing start k work s = .next (takeError ⟨.inputNotValid, bit⟩ 0 s) := by
  rw [h]; rfl

theorem frame_finish {α β : Type} {missing : Option Nat} {start : State → State} {k : BitVec 4}
    {work : State → StageEnd} {x : α} {f : α → Except Raise β} {store : β → State → State} (hm : missing = none)
    (hw : work (start s) = runStage (.ok x) f store (start s)) :
    frame missing start k work s = .next (finish k store (f x) (start s)) := by
  simp only [frame, hm, hw, runStage]
  cases f x <;> rfl

/-! ### The end of each stage, as the statements write it -/

theorem succeed_eq_endsWell (s : State) : succeed s = endsWell s.status s := by
  simp [succeed, complete, endsWell]

theorem takeError_eq_endsInError (e : Raise) (k : BitVec 4) (s : State) :
    takeError e k s = endsInError (errorCode e.kind) k e.info s.status s := by
  have hne : ¬errorCode e.kind = 0#8 := errorCode_ne_zero e.kind
  simp [takeError, complete, endsInError, hne]

/-- `s` after a `HPARSE` whose parser gave `x` (R131). -/
def hparseEnd (x : Except Raise Metadata) (s : State) : State := finish 1 storeMeta x (startWith clearMeta s)

/-- `s` after a `PALRD` whose reader gave `x` (R151). -/
def palrdEnd (x : Except Raise (List RGB)) (s : State) : State := finish 2 storePal x (startWith clearPal s)

/-- `s` after a `PXDEC` whose decoder gave `x` (R166). -/
def pxdecEnd (x : Except Raise Grid) (s : State) : State := finish 3 storeOgrid x (startWith clearOgrid s)

/-- `s` after an `XFORM` that gave the grid `g` (R201). -/
def xformEnd (g : Grid) (s : State) : State := succeed (storeTgrid g (startWith clearTgrid s))

/-- `s` after a `RESIZE` whose resampler gave `x` (R221). -/
def resizeEnd (x : Except Raise Grid) (s : State) : State := finish 5 storeRgrid x (startWith clearRgrid s)

/-- `s` after a `PPMENC` whose encoder gave `x` (R241). -/
def ppmencEnd (x : Except Raise (List Byte)) (s : State) : State := finish 6 storeObuf x (startWith clearObuf s)

theorem clearMeta_eq (st : Status) : clearMeta st =
    { st with
      metaValid := false, palValid := false, ogridValid := false, tgridValid := false, rgridValid := false
      obufValid := false } := rfl

theorem clearPal_eq (st : Status) : clearPal st =
    { st with
      palValid := false, ogridValid := false, tgridValid := false, rgridValid := false, obufValid := false } := rfl

theorem hparseEnd_ok (m : Metadata) (s : State) : hparseEnd (.ok m) s = endsWell
    { s.status with
      metaValid := true, palValid := false, ogridValid := false, tgridValid := false, rgridValid := false
      obufValid := false }
    { s with imeta := m } := by
  simp only [hparseEnd, finish_ok, succeed_eq_endsWell, endsWell, storeMeta, startWith, clearMeta_eq]

theorem palrdEnd_ok (p : List RGB) (s : State) : palrdEnd (.ok p) s = endsWell
    { s.status with
      palValid := true, ogridValid := false, tgridValid := false, rgridValid := false, obufValid := false }
    { s with pal := Memory.writeAll s.pal 0 p, palLen := BitVec.ofNat 32 p.length } := by
  simp only [palrdEnd, finish_ok, succeed_eq_endsWell, endsWell, storePal, startWith, clearPal_eq]

theorem pxdecEnd_ok (g : Grid) (s : State) : pxdecEnd (.ok g) s = endsWell
    { s.status with ogridValid := true, tgridValid := false, rgridValid := false, obufValid := false }
    { s with ogrid := Memory.writeAll s.ogrid 0 g.px, ogW := g.w, ogH := g.h } := succeed_eq_endsWell _

theorem xformEnd_eq (g : Grid) (s : State) : xformEnd g s = endsWell
    { s.status with tgridValid := true, rgridValid := false, obufValid := false }
    { s with tgrid := Memory.writeAll s.tgrid 0 g.px, tgW := g.w, tgH := g.h } := succeed_eq_endsWell _

theorem resizeEnd_ok (g : Grid) (s : State) : resizeEnd (.ok g) s = endsWell
    { s.status with rgridValid := true, obufValid := false }
    { s with rgrid := Memory.writeAll s.rgrid 0 g.px, rgW := g.w, rgH := g.h } := succeed_eq_endsWell _

theorem ppmencEnd_ok (l : List Byte) (s : State) : ppmencEnd (.ok l) s = endsWell { s.status with obufValid := true }
    { s with obuf := Memory.writeAll s.obuf 0 l, obufLen := l.length } := succeed_eq_endsWell _

section
variable (e : Raise) (s : State)

theorem hparseEnd_error : hparseEnd (.error e) s = endsInError (errorCode e.kind) 1 e.info
    { s.status with
      metaValid := false, palValid := false, ogridValid := false, tgridValid := false, rgridValid := false
      obufValid := false } s := takeError_eq_endsInError ..

theorem palrdEnd_error : palrdEnd (.error e) s = endsInError (errorCode e.kind) 2 e.info
    { s.status with
      palValid := false, ogridValid := false, tgridValid := false, rgridValid := false, obufValid := false } s :=
  takeError_eq_endsInError ..

theorem pxdecEnd_error : pxdecEnd (.error e) s = endsInError (errorCode e.kind) 3 e.info
    { s.status with ogridValid := false, tgridValid := false, rgridValid := false, obufValid := false } s :=
  takeError_eq_endsInError ..

theorem resizeEnd_error : resizeEnd (.error e) s = endsInError (errorCode e.kind) 5 e.info
    { s.status with rgridValid := false, obufValid := false } s := takeError_eq_endsInError ..

theorem ppmencEnd_error : ppmencEnd (.error e) s = endsInError (errorCode e.kind) 6 e.info
    { s.status with obufValid := false } s := takeError_eq_endsInError ..

end

/-! ### What a stage's end leaves of its own inputs -/

section
variable (m : Except Raise Metadata) (p : Except Raise (List RGB)) (g : Except Raise Grid) (tg : Grid)
  (l : Except Raise (List Byte)) (s : State)

@[simp] theorem hparseEnd_ibufValid : (hparseEnd m s).status.ibufValid = s.status.ibufValid := by
  cases m <;> simp [hparseEnd]
@[simp] theorem hparseEnd_fileOf : fileOf (hparseEnd m s) = fileOf s := by cases m <;> simp [hparseEnd]
@[simp] theorem hparseEnd_cfg : (hparseEnd m s).cfg = s.cfg := by cases m <;> simp [hparseEnd]

@[simp] theorem palrdEnd_ibufValid : (palrdEnd p s).status.ibufValid = s.status.ibufValid := by
  cases p <;> simp [palrdEnd]
@[simp] theorem palrdEnd_metaValid : (palrdEnd p s).status.metaValid = s.status.metaValid := by
  cases p <;> simp [palrdEnd]
@[simp] theorem palrdEnd_fileOf : fileOf (palrdEnd p s) = fileOf s := by cases p <;> simp [palrdEnd]
@[simp] theorem palrdEnd_imeta : (palrdEnd p s).imeta = s.imeta := by cases p <;> simp [palrdEnd]
@[simp] theorem palrdEnd_cfg : (palrdEnd p s).cfg = s.cfg := by cases p <;> simp [palrdEnd]

@[simp] theorem pxdecEnd_ibufValid : (pxdecEnd g s).status.ibufValid = s.status.ibufValid := by
  cases g <;> simp [pxdecEnd]
@[simp] theorem pxdecEnd_metaValid : (pxdecEnd g s).status.metaValid = s.status.metaValid := by
  cases g <;> simp [pxdecEnd]
@[simp] theorem pxdecEnd_palValid : (pxdecEnd g s).status.palValid = s.status.palValid := by
  cases g <;> simp [pxdecEnd]
@[simp] theorem pxdecEnd_fileOf : fileOf (pxdecEnd g s) = fileOf s := by cases g <;> simp [pxdecEnd]
@[simp] theorem pxdecEnd_imeta : (pxdecEnd g s).imeta = s.imeta := by cases g <;> simp [pxdecEnd]
@[simp] theorem pxdecEnd_paletteOf : paletteOf (pxdecEnd g s) = paletteOf s := by cases g <;> simp [pxdecEnd]
@[simp] theorem pxdecEnd_paletteFor (d : Depth) : paletteFor d (pxdecEnd g s) = paletteFor d s := by
  cases g <;> simp [pxdecEnd]
@[simp] theorem pxdecEnd_cfg : (pxdecEnd g s).cfg = s.cfg := by cases g <;> simp [pxdecEnd]

@[simp] theorem xformEnd_ogridValid : (xformEnd tg s).status.ogridValid = s.status.ogridValid := rfl
@[simp] theorem xformEnd_ogridOf : ogridOf (xformEnd tg s) = ogridOf s := rfl
@[simp] theorem xformEnd_cfg : (xformEnd tg s).cfg = s.cfg := rfl

@[simp] theorem resizeEnd_tgridValid : (resizeEnd g s).status.tgridValid = s.status.tgridValid := by
  cases g <;> simp [resizeEnd]
@[simp] theorem resizeEnd_tgridOf : tgridOf (resizeEnd g s) = tgridOf s := by cases g <;> simp [resizeEnd]
@[simp] theorem resizeEnd_cfg : (resizeEnd g s).cfg = s.cfg := by cases g <;> simp [resizeEnd]

@[simp] theorem ppmencEnd_rgridValid : (ppmencEnd l s).status.rgridValid = s.status.rgridValid := by
  cases l <;> simp [ppmencEnd]
@[simp] theorem ppmencEnd_rgridOf : rgridOf (ppmencEnd l s) = rgridOf s := by cases l <;> simp [ppmencEnd]
@[simp] theorem ppmencEnd_cfg : (ppmencEnd l s).cfg = s.cfg := by cases l <;> simp [ppmencEnd]

end

/-! ### What each stage answers, given its inputs -/

/-- `HPARSE` (R131) on a loaded file. -/
theorem hparse_eq (hi : s.status.ibufValid = true) {buf : List Byte} (hf : fileOf s = .ok buf) :
    hparseCommand s = .next (hparseEnd (parseHeader buf) s) :=
  frame_finish (missingHparse_none.2 hi) (by rw [hparseWork, fileOf_startWith, hf])

/-- `PALRD` (R151) at depth 8, 4 or 1. -/
theorem palrd_eq (hi : s.status.ibufValid = true) (hm : s.status.metaValid = true) {d : Depth}
    (hd : depthOf s.imeta.bpp = some d) (hx : indexed s.imeta = true) {buf : List Byte} (hf : fileOf s = .ok buf) :
    palrdCommand s = .next (palrdEnd (readPalette s.cfg.palCap s.imeta buf) s) := by
  have hstart : palrdStart s = startWith clearPal s := if_pos hx
  have hne : d ≠ .d24 := (indexed_iff hd).1 hx
  rw [palrdEnd, ← hstart]
  refine frame_finish (missingPalrd_none.2 ⟨hi, hm⟩) ?_
  rw [hstart, palrdWork, startWith_imeta, hd, fileOf_startWith, hf]
  cases d with
  | d24 => exact absurd rfl hne
  | d8 => rfl
  | d4 => rfl
  | d1 => rfl

/-- `PALRD` at depth 24 (R156). -/
theorem palrd_trueColour (hi : s.status.ibufValid = true) (hm : s.status.metaValid = true)
    (hd : depthOf s.imeta.bpp = some .d24) : palrdCommand s = .next (succeed s) := by
  have hstart : palrdStart s = s := if_neg fun hx => (indexed_iff hd).1 hx rfl
  simp [palrdCommand, frame, missingPalrd_none.2 ⟨hi, hm⟩, hstart, palrdWork, hd]

/-- `PXDEC` (R166, R170). -/
theorem pxdec_eq (hi : s.status.ibufValid = true) (hm : s.status.metaValid = true)
    (hp : indexed s.imeta = true → s.status.palValid = true) {d : Depth} (hd : depthOf s.imeta.bpp = some d)
    {pal : List RGB} (hpal : paletteFor d s = .ok pal) {buf : List Byte} (hf : fileOf s = .ok buf) :
    pxdecCommand s = .next (pxdecEnd (decodePixels s.cfg.gridCap d s.imeta pal buf) s) := by
  refine frame_finish (missingPxdec_none.2 ⟨hi, hm, hp⟩) ?_
  simp only [pxdecWork, startWith_imeta, hd, pxdecAt, paletteFor_startWith, hpal, fileOf_startWith, hf, startWith_cfg]

/-- Below depth 24 the palette is PAL (R33). -/
theorem paletteFor_of_ne {d : Depth} (h : d ≠ .d24) (s : State) : paletteFor d s = paletteOf s := by
  cases d with
  | d24 => exact absurd rfl h
  | d8 => rfl
  | d4 => rfl
  | d1 => rfl

/-- `XFORM` (R201) never errs. -/
theorem xform_eq (ho : s.status.ogridValid = true) {g : Grid} (hg : ogridOf s = .ok g) (b : Int) (er eg eb : Bool) :
    xformCommand b er eg eb s = .next (xformEnd (transform s.cfg.numerics b er eg eb g) s) :=
  frame_finish (k := 4) (f := fun g => .ok (transform s.cfg.numerics b er eg eb g)) (missingXform_none.2 ho)
    (by rw [xformWork, ogridOf_startWith, hg, startWith_cfg])

/-- `RESIZE` (R221) at any percentage. -/
theorem resize_eq (ht : s.status.tgridValid = true) {g : Grid} (hg : tgridOf s = .ok g) (p : Int) :
    resizeCommand p s = .next (resizeEnd (resize s.cfg.gridCap p g) s) := by
  refine frame_finish (missingResize_none.2 ht) ?_
  rw [resizeWork, tgridOf_startWith, hg, startWith_cfg]
  split
  · next hp => simp [runStage, resize, hp]
  · rfl

/-- `PPMENC` (R241). -/
theorem ppmenc_eq (hr : s.status.rgridValid = true) {g : Grid} (hg : rgridOf s = .ok g) :
    ppmencCommand s = .next (ppmencEnd (encodePpm s.cfg.obufCap g) s) :=
  frame_finish (missingPpmenc_none.2 hr) (by rw [ppmencWork, rgridOf_startWith, hg, startWith_cfg])

/-! ### What is stored is read back -/

/-- A palette whose length a register can hold is read back (R35). -/
theorem paletteOf_storePal {p : List RGB} (hp : p.length < 2 ^ 32) (s : State) : paletteOf (storePal p s) = .ok p :=
  slice_writeAll s.pal p (by simpa using hp)

theorem ogridOf_storeOgrid {g : Grid} (h : g.px.length = g.w * g.h) (s : State) : ogridOf (storeOgrid g s) = .ok g :=
  gridOf_writeAll s.ogrid h

theorem tgridOf_storeTgrid {g : Grid} (h : g.px.length = g.w * g.h) (s : State) : tgridOf (storeTgrid g s) = .ok g :=
  gridOf_writeAll s.tgrid h

theorem rgridOf_storeRgrid {g : Grid} (h : g.px.length = g.w * g.h) (s : State) : rgridOf (storeRgrid g s) = .ok g :=
  gridOf_writeAll s.rgrid h

theorem imageOf_storeObuf (l : List Byte) (s : State) : imageOf (storeObuf l s) = .ok l := slice_writeAll s.obuf l rfl

/-! ### The sizes of results -/

theorem readPalette_length_lt {cap : Capacity} {m : Metadata} {buf : List Byte} {p : List RGB}
    (h : readPalette cap m buf = .ok p) : p.length < 2 ^ 32 := by
  obtain ⟨-, hlen, -⟩ := readPalette_ok h
  exact hlen ▸ m.palcount.isLt

theorem decodePixels_size {cap : Capacity} {d : Depth} {m : Metadata} {pal : List RGB} {buf : List Byte} {g : Grid}
    (h : decodePixels cap d m pal buf = .ok g) : g.px.length = g.w * g.h := by
  obtain ⟨hw, hh, hpx⟩ := decodePixels_dims h
  rw [hpx, hw, hh]

/-- A grid read from memory has as many pixels as its dimensions say. -/
theorem gridOf_size {m : Memory RGB} {w h : Nat} {g : Grid} (hg : gridOf m w h = .ok g) : g.px.length = g.w * g.h := by
  obtain ⟨hw, hh, hpx, -⟩ := gridOf_ok hg
  rw [hpx, hw, hh]

/-- `XFORM` keeps the size of the grid it reads (R201). -/
theorem transform_size {m : Memory RGB} {w h : Nat} {g : Grid} (hg : gridOf m w h = .ok g) (n : Numerics) (b : Int)
    (er eg eb : Bool) :
    (transform n b er eg eb g).px.length = (transform n b er eg eb g).w * (transform n b er eg eb g).h := by
  simpa using gridOf_size hg

/-! ### In a state of the invariant every input can be read (R34, R40) -/

theorem Inv.file (h : Inv s) (hi : s.status.ibufValid = true) : ∃ buf, fileOf s = .ok buf :=
  slice_of_covers (h.fileIn hi).2

theorem Inv.palette (h : Inv s) (hp : s.status.palValid = true) : ∃ pal, paletteOf s = .ok pal :=
  slice_of_covers (h.palIn hp).2

theorem Inv.original (h : Inv s) (ho : s.status.ogridValid = true) : ∃ g, ogridOf s = .ok g :=
  gridOf_of_covers (h.ogridIn ho).written

theorem Inv.transformed (h : Inv s) (ht : s.status.tgridValid = true) : ∃ g, tgridOf s = .ok g :=
  gridOf_of_covers (h.tgridIn ht).written

theorem Inv.resampled (h : Inv s) (hr : s.status.rgridValid = true) : ∃ g, rgridOf s = .ok g :=
  gridOf_of_covers (h.rgridIn hr).written

/-- The palette a depth consults can be read where `PXDEC` needs it (R99). -/
theorem Inv.paletteFor (h : Inv s) {d : Depth} (hd : depthOf s.imeta.bpp = some d)
    (hp : indexed s.imeta = true → s.status.palValid = true) : ∃ pal, paletteFor d s = .ok pal := by
  by_cases h24 : d = .d24
  · exact ⟨[], by rw [h24]; rfl⟩
  · rw [paletteFor_of_ne h24]
    exact h.palette (hp ((indexed_iff hd).2 h24))

/-! ### No command ends a run (R267, R274) -/

theorem hparse_answers (h : Inv s) : ∃ t, hparseCommand s = .next t := by
  cases hm : missingHparse s.status with
  | some bit => exact ⟨_, frame_of_missing hm ..⟩
  | none =>
    have hi := missingHparse_none.1 hm
    obtain ⟨buf, hf⟩ := h.file hi
    exact ⟨_, hparse_eq hi hf⟩

theorem palrd_answers (h : Inv s) : ∃ t, palrdCommand s = .next t := by
  cases hm : missingPalrd s.status with
  | some bit => exact ⟨_, frame_of_missing hm ..⟩
  | none =>
    obtain ⟨hi, hmeta⟩ := missingPalrd_none.1 hm
    obtain ⟨buf, hf⟩ := h.file hi
    obtain ⟨d, hd⟩ := (h.metaOk hmeta).depth_some
    by_cases hx : indexed s.imeta = true
    · exact ⟨_, palrd_eq hi hmeta hd hx hf⟩
    · have h24 : d = .d24 := by_contra fun hne => hx ((indexed_iff hd).2 hne)
      exact ⟨_, palrd_trueColour hi hmeta (h24 ▸ hd)⟩

theorem pxdec_answers (h : Inv s) : ∃ t, pxdecCommand s = .next t := by
  cases hm : missingPxdec s.status s.imeta with
  | some bit => exact ⟨_, frame_of_missing hm ..⟩
  | none =>
    obtain ⟨hi, hmeta, hp⟩ := missingPxdec_none.1 hm
    obtain ⟨buf, hf⟩ := h.file hi
    obtain ⟨d, hd⟩ := (h.metaOk hmeta).depth_some
    obtain ⟨pal, hpal⟩ := h.paletteFor hd hp
    exact ⟨_, pxdec_eq hi hmeta hp hd hpal hf⟩

theorem xform_answers (h : Inv s) (b : Int) (er eg eb : Bool) : ∃ t, xformCommand b er eg eb s = .next t := by
  cases hm : missingXform s.status with
  | some bit => exact ⟨_, frame_of_missing hm ..⟩
  | none =>
    have ho := missingXform_none.1 hm
    obtain ⟨g, hg⟩ := h.original ho
    exact ⟨_, xform_eq ho hg b er eg eb⟩

theorem resize_answers (h : Inv s) (p : Int) : ∃ t, resizeCommand p s = .next t := by
  cases hm : missingResize s.status with
  | some bit => exact ⟨_, frame_of_missing hm ..⟩
  | none =>
    have ht := missingResize_none.1 hm
    obtain ⟨g, hg⟩ := h.transformed ht
    exact ⟨_, resize_eq ht hg p⟩

theorem ppmenc_answers (h : Inv s) : ∃ t, ppmencCommand s = .next t := by
  cases hm : missingPpmenc s.status with
  | some bit => exact ⟨_, frame_of_missing hm ..⟩
  | none =>
    have hr := missingPpmenc_none.1 hm
    obtain ⟨g, hg⟩ := h.resampled hr
    exact ⟨_, ppmenc_eq hr hg⟩

/-- A continuation that answers wherever the invariant holds can follow a command that keeps it. -/
theorem andThen_answers {r : Result} {k : State → Result} (hr : ∃ u, r = .next u)
    (hinv : ∀ {u}, r = .next u → Inv u) (hk : ∀ {u}, Inv u → ∃ t, k u = .next t) : ∃ t, andThen r k = .next t := by
  obtain ⟨u, rfl⟩ := hr
  exact hk (hinv rfl)

theorem unlessError_answers {k : State → Result} (hk : ∃ t, k s = .next t) : ∃ t, unlessError k s = .next t := by
  rw [unlessError]
  split
  · exact hk
  · exact ⟨s, rfl⟩

theorem decode_answers (h : Inv s) : ∃ t, decodeCommand s = .next t := by
  refine andThen_answers (hparse_answers h) (hparse_keeps_inv h) fun hu => unlessError_answers ?_
  split
  · exact andThen_answers (palrd_answers hu) (palrd_keeps_inv hu) fun hv => unlessError_answers (pxdec_answers hv)
  · exact pxdec_answers hu

/-- Every instruction answers a next state in every state of the invariant. -/
theorem exec_answers (i : Instr) (h : Inv s) : ∃ t, exec i s = .next t := by
  cases i with
  | hparse => exact hparse_answers h
  | palrd => exact palrd_answers h
  | pxdec => exact pxdec_answers h
  | pxdec24 => exact pxdec_answers h
  | pxdec8 => exact pxdec_answers h
  | pxdec4 => exact pxdec_answers h
  | pxdec1 => exact pxdec_answers h
  | xform b er eg eb => exact xform_answers h b er eg eb
  | xformId => exact xform_answers h 100 true true true
  | resize p => exact resize_answers h p
  | ppmenc => exact ppmenc_answers h
  | decode => exact decode_answers h
  | render b er eg eb p =>
    exact andThen_answers (xform_answers h b er eg eb) (xform_keeps_inv h) fun hu =>
      andThen_answers (resize_answers hu p) (resize_keeps_inv hu) ppmenc_answers

/-- Issuing a word answers in every state of the invariant, whether the word is legal or not. -/
theorem issueWord_answers (w : Word) (h : Inv s) : ∃ t, issueWord w s = .next t := by
  rw [issueWord, if_neg (by simp [h.idle])]
  split
  · next i _ =>
    obtain ⟨u, hu⟩ := exec_answers i h
    exact ⟨renew s u, by rw [hu]; rfl⟩
  · exact ⟨_, rfl⟩

/-- A file that fits is loaded (R46). -/
theorem perform_loadbuf {bytes : List Byte} (hb : s.status.busy = false) (hf : fits s.cfg.ibufCap bytes.length = true) :
    perform (.loadbuf bytes) s = .next (renewIbuf (loadFile bytes s)) := by
  simp [perform, loadbuf, hb, hf]

/-- A host action answers in every state of the invariant, but for a file that does not fit. -/
theorem perform_answers {a : HostAction} (h : Inv s)
    (ha : ∀ bytes, a = .loadbuf bytes → fits s.cfg.ibufCap bytes.length = true) : ∃ t, perform a s = .next t := by
  cases a with
  | loadbuf bytes => exact ⟨_, perform_loadbuf h.idle (ha bytes rfl)⟩
  | writeReg n v =>
    rw [perform, writeRegister]
    split
    · exact issueWord_answers v h
    · exact ⟨s, rfl⟩
  | readReg n => exact ⟨_, rfl⟩
  | readIbuf k => exact ⟨_, rfl⟩
  | readPal k => exact ⟨_, rfl⟩
  | readPixel g x y => exact ⟨_, rfl⟩
  | readObuf k => exact ⟨_, rfl⟩
  | reset => exact ⟨_, rfl⟩

/-- Settles O55: in a state of the invariant every input can be read, so no command faults, and `canStep` excludes the
one refusal. -/
theorem stepGoesOn : Obligations.StepGoesOn := by
  unfold Obligations.StepGoesOn
  intro s h hcan
  cases hp : s.pending with
  | nil => exact ⟨s, by rw [step, hp]⟩
  | cons a rest =>
    rw [step_cons hp]
    refine perform_answers (inv_hostSide h rest s.hostData s.freeCount s.gens) fun bytes hb => ?_
    subst hb
    rwa [canStep, hp] at hcan

end Sys2Proof.Machine

/-! ## No valid result is stale (R41)

Along the same operations as `Inv`: ending a command and clearing flags keep `Fresh`, and a stored result is fresh by
what the stage computed it from, once everything computed from what it overwrites is invalid. -/

namespace Sys2Proof.Machine

variable {s t : State}

theorem fresh_succeed (h : Fresh s) : Fresh (succeed s) := { h with }

theorem fresh_takeError (h : Fresh s) (e : Raise) (k : BitVec 4) : Fresh (takeError e k s) := { h with }

theorem fresh_startWith_clearObuf (h : Fresh s) : Fresh (startWith clearObuf s) := { h with obufOf := nofun }

theorem fresh_startWith_clearRgrid (h : Fresh s) : Fresh (startWith clearRgrid s) :=
  { fresh_startWith_clearObuf h with rgridOf := nofun }

theorem fresh_startWith_clearTgrid (h : Fresh s) : Fresh (startWith clearTgrid s) :=
  { fresh_startWith_clearRgrid h with tgridOf := nofun }

theorem fresh_startWith_clearOgrid (h : Fresh s) : Fresh (startWith clearOgrid s) :=
  { fresh_startWith_clearTgrid h with ogridOf := nofun }

theorem fresh_startWith_clearPal (h : Fresh s) : Fresh (startWith clearPal s) :=
  { fresh_startWith_clearOgrid h with palOf := nofun }

theorem fresh_startWith_clearMeta (h : Fresh s) : Fresh (startWith clearMeta s) :=
  { fresh_startWith_clearPal h with metaOf := nofun }

/-! ### Storing a result (R98 step 5) -/

theorem fresh_storeMeta (h : Fresh s) {buf : List Byte} {m : Metadata} (hf : fileOf s = .ok buf)
    (hm : parseHeader buf = .ok m) (hpal : s.status.palValid = false) (hogrid : s.status.ogridValid = false) :
    Fresh (storeMeta m s) :=
  { h with
    metaOf := fun _ => ⟨buf, hf, hm⟩
    palOf := fun hv => by simp [hpal] at hv
    ogridOf := fun hv => by simp [hogrid] at hv }

theorem fresh_storePal (h : Fresh s) {buf : List Byte} {p : List RGB} (hf : fileOf s = .ok buf)
    (hp : readPalette s.cfg.palCap s.imeta buf = .ok p) (hogrid : s.status.ogridValid = false) :
    Fresh (storePal p s) :=
  { h with
    palOf := fun _ => ⟨buf, p, hf, paletteOf_storePal (readPalette_length_lt hp) s, hp⟩
    ogridOf := fun hv => by simp [hogrid] at hv }

theorem fresh_storeOgrid (h : Fresh s) {buf : List Byte} {d : Depth} {pal : List RGB} {g : Grid}
    (hf : fileOf s = .ok buf) (hd : depthOf s.imeta.bpp = some d) (hpal : paletteFor d s = .ok pal)
    (hg : decodePixels s.cfg.gridCap d s.imeta pal buf = .ok g) (htgrid : s.status.tgridValid = false) :
    Fresh (storeOgrid g s) :=
  { h with
    ogridOf := fun _ =>
      ⟨buf, d, pal, g, hf, hd, (paletteFor_storeOgrid d g s).trans hpal,
        ogridOf_storeOgrid (decodePixels_size hg) s, hg⟩
    tgridOf := fun hv => by simp [htgrid] at hv }

theorem fresh_storeTgrid (h : Fresh s) {g : Grid} {b : Int} (er eg eb : Bool) (hg : ogridOf s = .ok g)
    (hb : fitsField b = true) (hrgrid : s.status.rgridValid = false) :
    Fresh (storeTgrid (transform s.cfg.numerics b er eg eb g) s) :=
  { h with
    tgridOf := fun _ => ⟨g, b, er, eg, eb, hg, hb, tgridOf_storeTgrid (transform_size hg ..) s⟩
    rgridOf := fun hv => by simp [hrgrid] at hv }

theorem fresh_storeRgrid (h : Fresh s) {g r : Grid} {p : Int} (hg : tgridOf s = .ok g) (hp : fitsField p = true)
    (hr : resize s.cfg.gridCap p g = .ok r) (hobuf : s.status.obufValid = false) : Fresh (storeRgrid r s) :=
  { h with
    rgridOf := fun _ => ⟨g, r, p, hg, hp, rgridOf_storeRgrid (resize_shape hr).2.2 s, hr⟩
    obufOf := fun hv => by simp [hobuf] at hv }

theorem fresh_storeObuf (h : Fresh s) {r : Grid} (hr : rgridOf s = .ok r) : Fresh (storeObuf (ppm r) s) :=
  { h with obufOf := fun _ => ⟨r, hr, imageOf_storeObuf (ppm r) s⟩ }

/-! ### The six stages -/

theorem hparse_keeps_fresh (h : Fresh s) (hx : hparseCommand s = .next t) : Fresh t := by
  have hstart := fresh_startWith_clearMeta h
  rcases hparse_cases hx with ⟨bit, -, rfl⟩ | ⟨-, buf, hf, ⟨m, hm, rfl⟩ | ⟨e, -, rfl⟩⟩
  · exact fresh_takeError h ..
  · exact fresh_succeed (fresh_storeMeta hstart hf hm rfl rfl)
  · exact fresh_takeError hstart ..

theorem palrd_keeps_fresh (h : Fresh s) (hx : palrdCommand s = .next t) : Fresh t := by
  have hstart := fresh_startWith_clearPal h
  rcases palrd_cases hx with
    ⟨bit, -, rfl⟩ | ⟨-, -, ⟨-, rfl⟩ | ⟨-, buf, hf, ⟨p, hp, rfl⟩ | ⟨e, -, rfl⟩⟩⟩
  · exact fresh_takeError h ..
  · exact fresh_succeed h
  · exact fresh_succeed (fresh_storePal hstart hf hp rfl)
  · exact fresh_takeError hstart ..

theorem pxdec_keeps_fresh (h : Fresh s) (hx : pxdecCommand s = .next t) : Fresh t := by
  have hstart := fresh_startWith_clearOgrid h
  rcases pxdec_cases hx with
    ⟨bit, -, rfl⟩ | ⟨-, -, -, d, pal, buf, hd, hpal, hf, ⟨g, hg, rfl⟩ | ⟨e, -, rfl⟩⟩
  · exact fresh_takeError h ..
  · exact fresh_succeed (fresh_storeOgrid hstart hf hd ((paletteFor_startWith d clearOgrid s).trans hpal) hg rfl)
  · exact fresh_takeError hstart ..

theorem xform_keeps_fresh {b : Int} {er eg eb : Bool} (hb : fitsField b = true) (h : Fresh s)
    (hx : xformCommand b er eg eb s = .next t) : Fresh t := by
  rcases xform_cases hx with ⟨bit, -, rfl⟩ | ⟨-, g, hg, rfl⟩
  · exact fresh_takeError h ..
  · exact fresh_succeed (fresh_storeTgrid (fresh_startWith_clearTgrid h) er eg eb hg hb rfl)

/-- At a percentage not above 0 TGRID is not read, but `Fresh` says that it can be (R222). -/
theorem resize_keeps_fresh {p : Int} (hp : fitsField p = true) (h : Fresh s) (hx : resizeCommand p s = .next t) :
    Fresh t := by
  have hstart := fresh_startWith_clearRgrid h
  rcases resize_cases hx with
    ⟨bit, -, rfl⟩ | ⟨htgrid, ⟨hle, rfl⟩ | ⟨-, g, hg, ⟨r, hr, rfl⟩ | ⟨e, -, rfl⟩⟩⟩
  · exact fresh_takeError h ..
  · obtain ⟨_, _, _, _, _, -, -, hg⟩ := h.tgridOf htgrid
    exact fresh_succeed (fresh_storeRgrid hstart hg hp (by simp [resize, hle]) rfl)
  · exact fresh_succeed (fresh_storeRgrid hstart hg hp hr rfl)
  · exact fresh_takeError hstart ..

theorem ppmenc_keeps_fresh (h : Fresh s) (hx : ppmencCommand s = .next t) : Fresh t := by
  have hstart := fresh_startWith_clearObuf h
  rcases ppmenc_cases hx with ⟨bit, -, rfl⟩ | ⟨-, g, hg, ⟨l, hl, rfl⟩ | ⟨e, -, rfl⟩⟩
  · exact fresh_takeError h ..
  · obtain ⟨rfl, -⟩ := encodePpm_ok hl
    exact fresh_succeed (fresh_storeObuf hstart hg)
  · exact fresh_takeError hstart ..

theorem exec_keeps_fresh {i : Instr} (hi : i.wf = true) (h : Fresh s) (hx : exec i s = .next t) : Fresh t :=
  exec_keeps hparse_keeps_fresh palrd_keeps_fresh pxdec_keeps_fresh xform_keeps_fresh resize_keeps_fresh
    ppmenc_keeps_fresh hi h hx

/-! ### The host's side -/

theorem fresh_resetOf (c : Config) : Fresh (State.resetOf c) := ⟨nofun, nofun, nofun, nofun, nofun, nofun⟩

theorem fresh_loadFile (bytes : List Byte) (s : State) : Fresh (loadFile bytes s) :=
  ⟨nofun, nofun, nofun, nofun, nofun, nofun⟩

/-- `Fresh` says nothing of the host's queue, of what it has read and of the model's counts. -/
theorem fresh_hostSide (h : Fresh s) (p : List HostAction) (d : Option HostData) (n : Nat) (g : Generations) :
    Fresh { s with pending := p, hostData := d, freeCount := n, gens := g } := { h with }

theorem perform_keeps_fresh {a : HostAction} (h : Fresh s) (hx : perform a s = .next t) : Fresh t := by
  rcases perform_cases hx with
    ⟨bytes, -, -, -, rfl⟩ | ⟨d, n, rfl⟩ | ⟨rfl, -⟩ | ⟨w, i, u, -, -, hi, hu, rfl⟩ | ⟨w, r, -, -, -, rfl⟩ | ⟨-, rfl⟩
  · exact fresh_hostSide (fresh_loadFile bytes s) ..
  · exact fresh_hostSide h ..
  · exact h
  · exact fresh_hostSide (exec_keeps_fresh (decode_wf hi) h hu) ..
  · exact fresh_takeError h ..
  · exact fresh_hostSide (fresh_resetOf s.cfg) ..

/-- Settles O57: nothing is valid after reset, and every host action keeps what is valid fresh. -/
theorem validResultsAreFresh : Obligations.ValidResultsAreFresh := by
  unfold Obligations.ValidResultsAreFresh
  refine ⟨fresh_resetOf, fun s t _ h hx => ?_⟩
  rcases step_cases hx with ⟨-, rfl⟩ | ⟨a, rest, -, ha⟩
  · exact h
  · exact perform_keeps_fresh (fresh_hostSide h rest ..) ha

end Sys2Proof.Machine

/-! ## What lies behind a valid flag of 0 has no effect (R40, U1)

`SameToHost` is kept, operation by operation, by whatever happens to two states alike; a stage reads only inputs whose
flags it has tested, and those the two states share. -/

namespace Sys2Proof.Machine

variable {s t u v : State}

theorem sameBelow_writeAll {α : Type} (m m' : Memory α) (l : List α) {n : Nat} (hn : n ≤ l.length) :
    Memory.sameBelow n (Memory.writeAll m 0 l) (Memory.writeAll m' 0 l) := fun a ha => by
  simp only [read_writeAll_zero, if_pos (Nat.lt_of_lt_of_le ha hn)]

/-! ### The operations -/

theorem same_complete (h : SameToHost s t) (code : BitVec 8) (k : BitVec 4) (info : Nat) :
    SameToHost (complete code k info s) (complete code k info t) :=
  { h with
    status := by simp only [complete_status, h.status]
    err := rfl
    errInfo := rfl }

theorem same_succeed (h : SameToHost s t) : SameToHost (succeed s) (succeed t) := same_complete h ..

theorem same_takeError (h : SameToHost s t) (e : Raise) (k : BitVec 4) :
    SameToHost (takeError e k s) (takeError e k t) := same_complete h ..

theorem same_startWith_clearObuf (h : SameToHost s t) :
    SameToHost (startWith clearObuf s) (startWith clearObuf t) :=
  { h with
    status := congrArg clearObuf h.status
    obufLen := nofun
    obuf := nofun }

theorem same_startWith_clearRgrid (h : SameToHost s t) :
    SameToHost (startWith clearRgrid s) (startWith clearRgrid t) :=
  { same_startWith_clearObuf h with
    status := congrArg clearRgrid h.status
    rgDims := nofun
    rgrid := nofun }

theorem same_startWith_clearTgrid (h : SameToHost s t) :
    SameToHost (startWith clearTgrid s) (startWith clearTgrid t) :=
  { same_startWith_clearRgrid h with
    status := congrArg clearTgrid h.status
    tgDims := nofun
    tgrid := nofun }

theorem same_startWith_clearOgrid (h : SameToHost s t) :
    SameToHost (startWith clearOgrid s) (startWith clearOgrid t) :=
  { same_startWith_clearTgrid h with
    status := congrArg clearOgrid h.status
    ogDims := nofun
    ogrid := nofun }

theorem same_startWith_clearPal (h : SameToHost s t) : SameToHost (startWith clearPal s) (startWith clearPal t) :=
  { same_startWith_clearOgrid h with
    status := congrArg clearPal h.status
    palLen := nofun
    pal := nofun }

theorem same_startWith_clearMeta (h : SameToHost s t) :
    SameToHost (startWith clearMeta s) (startWith clearMeta t) :=
  { same_startWith_clearPal h with
    status := congrArg clearMeta h.status
    imeta := nofun }

theorem same_storeMeta (h : SameToHost s t) (m : Metadata) : SameToHost (storeMeta m s) (storeMeta m t) :=
  { h with
    status := by simp only [storeMeta_status, h.status]
    imeta := fun _ => rfl }

theorem same_storePal (h : SameToHost s t) (p : List RGB) : SameToHost (storePal p s) (storePal p t) :=
  { h with
    status := by simp only [storePal_status, h.status]
    palLen := fun _ => rfl
    pal := fun _ => sameBelow_writeAll s.pal t.pal p (by simpa using Nat.mod_le ..) }

theorem same_storeOgrid (h : SameToHost s t) {g : Grid} (hg : g.px.length = g.w * g.h) :
    SameToHost (storeOgrid g s) (storeOgrid g t) :=
  { h with
    status := by simp only [storeOgrid_status, h.status]
    ogDims := fun _ => ⟨rfl, rfl⟩
    ogrid := fun _ => sameBelow_writeAll s.ogrid t.ogrid g.px hg.ge }

theorem same_storeTgrid (h : SameToHost s t) {g : Grid} (hg : g.px.length = g.w * g.h) :
    SameToHost (storeTgrid g s) (storeTgrid g t) :=
  { h with
    status := by simp only [storeTgrid_status, h.status]
    tgDims := fun _ => ⟨rfl, rfl⟩
    tgrid := fun _ => sameBelow_writeAll s.tgrid t.tgrid g.px hg.ge }

theorem same_storeRgrid (h : SameToHost s t) {g : Grid} (hg : g.px.length = g.w * g.h) :
    SameToHost (storeRgrid g s) (storeRgrid g t) :=
  { h with
    status := by simp only [storeRgrid_status, h.status]
    rgDims := fun _ => ⟨rfl, rfl⟩
    rgrid := fun _ => sameBelow_writeAll s.rgrid t.rgrid g.px hg.ge }

theorem same_storeObuf (h : SameToHost s t) (l : List Byte) : SameToHost (storeObuf l s) (storeObuf l t) :=
  { h with
    status := by simp only [storeObuf_status, h.status]
    obufLen := fun _ => rfl
    obuf := fun _ => sameBelow_writeAll s.obuf t.obuf l Nat.le.refl }

/-! ### What a valid flag of 1 guards reads the same -/

theorem SameToHost.fileOf_eq (h : SameToHost s t) (hi : s.status.ibufValid = true) : fileOf s = fileOf t := by
  rw [fileOf, fileOf, ← h.ibufLen hi, slice_congr (h.ibuf hi)]

theorem SameToHost.paletteOf_eq (h : SameToHost s t) (hp : s.status.palValid = true) : paletteOf s = paletteOf t := by
  rw [paletteOf, paletteOf, ← h.palLen hp, slice_congr (h.pal hp)]

theorem SameToHost.ogridOf_eq (h : SameToHost s t) (ho : s.status.ogridValid = true) : ogridOf s = ogridOf t := by
  obtain ⟨hw, hh⟩ := h.ogDims ho
  rw [ogridOf, ogridOf, ← hw, ← hh, gridOf_congr (h.ogrid ho)]

theorem SameToHost.tgridOf_eq (h : SameToHost s t) (ht : s.status.tgridValid = true) : tgridOf s = tgridOf t := by
  obtain ⟨hw, hh⟩ := h.tgDims ht
  rw [tgridOf, tgridOf, ← hw, ← hh, gridOf_congr (h.tgrid ht)]

theorem SameToHost.rgridOf_eq (h : SameToHost s t) (hr : s.status.rgridValid = true) : rgridOf s = rgridOf t := by
  obtain ⟨hw, hh⟩ := h.rgDims hr
  rw [rgridOf, rgridOf, ← hw, ← hh, gridOf_congr (h.rgrid hr)]

theorem SameToHost.paletteFor_eq (h : SameToHost s t) {d : Depth} (hp : d ≠ .d24 → s.status.palValid = true) :
    paletteFor d s = paletteFor d t := by
  by_cases h24 : d = .d24
  · rw [h24]; rfl
  · rw [paletteFor_of_ne h24, paletteFor_of_ne h24, h.paletteOf_eq (hp h24)]

/-! ### The frame -/

/-- Two ends of a stage a host cannot tell apart. -/
inductive SameEnd : StageEnd → StageEnd → Prop where
  | done {s t : State} : SameToHost s t → SameEnd (.done s) (.done t)
  | raised (e : Raise) : SameEnd (.raised e) (.raised e)
  | stuck (f : Fault) : SameEnd (.stuck f) (.stuck f)

theorem runStage_same {α β : Type} {input input' : Except Fault α} {f f' : α → Except Raise β}
    {store : β → State → State} (hin : input = input') (hf : f = f')
    (hst : ∀ x y, input = .ok x → f x = .ok y → SameToHost (store y s) (store y t)) :
    SameEnd (runStage input f store s) (runStage input' f' store t) := by
  subst hin hf
  cases hx : input with
  | error e => exact .stuck e
  | ok x =>
    simp only [runStage]
    cases hy : f x with
    | error e => exact .raised e
    | ok y => exact .done (hst x y hx hy)

/-- A framed command keeps `SameToHost` where its stage does from inputs that are all valid (R98, R99). -/
theorem frame_same {missing missing' : Option Nat} {start : State → State} {k : BitVec 4} {work : State → StageEnd}
    (h : SameToHost s t) (hm : missing = missing')
    (hw : missing = none → SameToHost (start s) (start t) ∧ SameEnd (work (start s)) (work (start t))) :
    SameOutcome (frame missing start k work s) (frame missing' start k work t) := by
  subst hm
  cases missing with
  | some bit => exact .next (same_takeError h ..)
  | none =>
    obtain ⟨hstart, hend⟩ := hw rfl
    simp only [frame]
    generalize work (start s) = e, work (start t) = e' at hend ⊢
    cases hend with
    | done huv => exact .next (same_succeed huv)
    | raised e => exact .next (same_takeError hstart ..)
    | stuck f => exact .fault f

theorem andThen_same {r r' : Result} {k k' : State → Result} (hr : SameOutcome r r')
    (hk : ∀ {u v}, r = .next u → SameToHost u v → SameOutcome (k u) (k' v)) :
    SameOutcome (andThen r k) (andThen r' k') := by
  cases hr with
  | next huv => exact hk rfl huv
  | fault f => exact .fault f
  | refused f => exact .refused f

theorem unlessError_same {k k' : State → Result} (h : SameToHost s t)
    (hk : s.err.code = 0 → SameOutcome (k s) (k' t)) : SameOutcome (unlessError k s) (unlessError k' t) := by
  rw [unlessError, unlessError, ← h.err]
  split
  · next hc => exact hk hc
  · exact .next h

/-! ### The six stages -/

theorem hparse_same (h : SameToHost s t) : SameOutcome (hparseCommand s) (hparseCommand t) :=
  frame_same h (by rw [h.status]) fun hm =>
    have hstart := same_startWith_clearMeta h
    ⟨hstart, runStage_same (h.fileOf_eq (missingHparse_none.1 hm)) rfl fun _ m _ _ => same_storeMeta hstart m⟩

theorem palrdWork_same (h : SameToHost s t) (hi : s.status.ibufValid = true) (hm : s.status.metaValid = true) :
    SameEnd (palrdWork s) (palrdWork t) := by
  have stored : SameEnd (runStage (fileOf s) (readPalette s.cfg.palCap s.imeta) storePal s)
      (runStage (fileOf t) (readPalette t.cfg.palCap t.imeta) storePal t) :=
    runStage_same (h.fileOf_eq hi) (by rw [h.cfg, h.imeta hm]) fun _ p _ _ => same_storePal h p
  rw [palrdWork, palrdWork, ← h.imeta hm]
  rw [← h.imeta hm] at stored
  cases depthOf s.imeta.bpp with
  | none => exact .stuck _
  | some d =>
    cases d with
    | d24 => exact .done h
    | d8 => exact stored
    | d4 => exact stored
    | d1 => exact stored

theorem palrd_same (h : SameToHost s t) : SameOutcome (palrdCommand s) (palrdCommand t) := by
  refine frame_same h (by rw [h.status]) fun hm => ?_
  obtain ⟨hi, hmeta⟩ := missingPalrd_none.1 hm
  rw [palrdStart, palrdStart, ← h.imeta hmeta]
  split
  · exact ⟨same_startWith_clearPal h, palrdWork_same (same_startWith_clearPal h) hi hmeta⟩
  · exact ⟨h, palrdWork_same h hi hmeta⟩

theorem pxdecWork_same (h : SameToHost s t) (hi : s.status.ibufValid = true) (hm : s.status.metaValid = true)
    (hp : indexed s.imeta = true → s.status.palValid = true) : SameEnd (pxdecWork s) (pxdecWork t) := by
  rw [pxdecWork, pxdecWork, ← h.imeta hm]
  cases hd : depthOf s.imeta.bpp with
  | none => exact .stuck _
  | some d =>
    have hpal := h.paletteFor_eq (d := d) fun hne => hp ((indexed_iff hd).2 hne)
    simp only [pxdecAt, ← hpal]
    cases paletteFor d s with
    | error f => exact .stuck f
    | ok pal =>
      exact runStage_same (h.fileOf_eq hi) (by rw [h.cfg, h.imeta hm])
        fun _ _ _ hg => same_storeOgrid h (decodePixels_size hg)

/-- The flags `PXDEC` misses do not depend on metadata that is not valid (R99). -/
theorem missingPxdec_same (h : SameToHost s t) : missingPxdec s.status s.imeta = missingPxdec t.status t.imeta := by
  rw [← h.status]
  by_cases hm : s.status.metaValid = true
  · rw [h.imeta hm]
  · simp [missingPxdec, hm]

theorem pxdec_same (h : SameToHost s t) : SameOutcome (pxdecCommand s) (pxdecCommand t) :=
  frame_same h (missingPxdec_same h) fun hm =>
    have hstart := same_startWith_clearOgrid h
    have ⟨hi, hmeta, hp⟩ := missingPxdec_none.1 hm
    ⟨hstart, pxdecWork_same hstart hi hmeta hp⟩

theorem xform_same (h : SameToHost s t) (b : Int) (er eg eb : Bool) :
    SameOutcome (xformCommand b er eg eb s) (xformCommand b er eg eb t) :=
  frame_same h (by rw [h.status]) fun hm => by
    have hstart := same_startWith_clearTgrid h
    refine ⟨hstart, runStage_same (h.ogridOf_eq (missingXform_none.1 hm)) (by rw [hstart.cfg]) fun g y hg hy => ?_⟩
    cases hy
    exact same_storeTgrid hstart (transform_size hg ..)

theorem resize_same (h : SameToHost s t) (p : Int) : SameOutcome (resizeCommand p s) (resizeCommand p t) :=
  frame_same h (by rw [h.status]) fun hm => by
    have hstart := same_startWith_clearRgrid h
    refine ⟨hstart, ?_⟩
    rw [resizeWork, resizeWork]
    split
    · exact .done (same_storeRgrid hstart rfl)
    · exact runStage_same (h.tgridOf_eq (missingResize_none.1 hm)) (by rw [hstart.cfg])
        fun _ _ _ hr => same_storeRgrid hstart (resize_shape hr).2.2

theorem ppmenc_same (h : SameToHost s t) : SameOutcome (ppmencCommand s) (ppmencCommand t) :=
  frame_same h (by rw [h.status]) fun hm =>
    have hstart := same_startWith_clearObuf h
    ⟨hstart, runStage_same (h.rgridOf_eq (missingPpmenc_none.1 hm)) (by rw [hstart.cfg])
      fun _ l _ _ => same_storeObuf hstart l⟩

/-- A `HPARSE` that ends without an error leaves valid metadata (R131). -/
theorem hparse_metaValid (hx : hparseCommand s = .next t) (hc : t.err.code = 0) : t.status.metaValid = true := by
  rcases hparse_cases hx with ⟨bit, -, rfl⟩ | ⟨-, buf, -, ⟨m, -, rfl⟩ | ⟨e, -, rfl⟩⟩
  · exact absurd hc (errorCode_ne_zero .inputNotValid)
  · rfl
  · exact absurd hc (errorCode_ne_zero e.kind)

theorem decode_same (h : SameToHost s t) : SameOutcome (decodeCommand s) (decodeCommand t) := by
  refine andThen_same (hparse_same h) fun {u v} hu huv => unlessError_same huv fun hc => ?_
  rw [← huv.imeta (hparse_metaValid hu hc)]
  split
  · exact andThen_same (palrd_same huv) fun _ h' => unlessError_same h' fun _ => pxdec_same h'
  · exact pxdec_same huv

theorem exec_same (i : Instr) (h : SameToHost s t) : SameOutcome (exec i s) (exec i t) := by
  cases i with
  | hparse => exact hparse_same h
  | palrd => exact palrd_same h
  | pxdec => exact pxdec_same h
  | pxdec24 => exact pxdec_same h
  | pxdec8 => exact pxdec_same h
  | pxdec4 => exact pxdec_same h
  | pxdec1 => exact pxdec_same h
  | xform b er eg eb => exact xform_same h b er eg eb
  | xformId => exact xform_same h 100 true true true
  | resize p => exact resize_same h p
  | ppmenc => exact ppmenc_same h
  | decode => exact decode_same h
  | render b er eg eb p =>
    exact andThen_same (xform_same h b er eg eb) fun _ h' =>
      andThen_same (resize_same h' p) fun _ h'' => ppmenc_same h''

/-! ### Generations (log 17) -/

/-- A generation depends on the contents in use only where the memory is valid before and after. -/
theorem generation_congr {was now same same' : Bool} (h : was = true → now = true → same = same') (n : Nat) :
    generation was now same n = generation was now same' n := by
  cases was with
  | false => rfl
  | true =>
    cases now with
    | false => rfl
    | true => rw [h rfl rfl]

theorem sameUpTo_congr {α : Type} [DecidableEq α] {n : Nat} {m m' p p' : Memory α} (h : Memory.sameBelow n m m')
    (h' : Memory.sameBelow n p p') : Memory.sameUpTo n m p = Memory.sameUpTo n m' p' := by
  rw [Bool.eq_iff_iff, sameUpTo_iff, sameUpTo_iff]
  constructor
  · exact fun hmp a ha => (h a ha).symm.trans ((hmp a ha).trans (h' a ha))
  · exact fun hmp a ha => (h a ha).trans ((hmp a ha).trans (h' a ha).symm)

/-- The test of the contents in use compares as many old items as new ones, and these the two states share. -/
theorem inUse_congr {α : Type} [DecidableEq α] {size : Prop} [Decidable size] {old new : Nat} {m m' p p' : Memory α}
    (hsize : size → old = new) (h : Memory.sameBelow old m m') (h' : Memory.sameBelow new p p') :
    (decide size && Memory.sameUpTo new m p) = (decide size && Memory.sameUpTo new m' p') := by
  by_cases hs : size
  · rw [sameUpTo_congr (hsize hs ▸ h) h']
  · simp [hs]

theorem nextGens_same (h : SameToHost s t) (huv : SameToHost u v) : nextGens s u = nextGens t v := by
  rw [nextGens, nextGens, ← h.gens, ← h.status, ← huv.status, Generations.mk.injEq]
  refine ⟨rfl, generation_congr (fun hs hu => ?_) _, generation_congr (fun hs hu => ?_) _,
    generation_congr (fun hs hu => ?_) _, generation_congr (fun hs hu => ?_) _, generation_congr (fun hs hu => ?_) _⟩
  · rw [← h.palLen hs, ← huv.palLen hu]
    exact inUse_congr (fun he => by rw [he]) (h.pal hs) (huv.pal hu)
  · obtain ⟨hw, hh⟩ := h.ogDims hs
    obtain ⟨hw', hh'⟩ := huv.ogDims hu
    rw [← hw, ← hh, ← hw', ← hh']
    exact inUse_congr (fun he => by rw [he.1, he.2]) (h.ogrid hs) (huv.ogrid hu)
  · obtain ⟨hw, hh⟩ := h.tgDims hs
    obtain ⟨hw', hh'⟩ := huv.tgDims hu
    rw [← hw, ← hh, ← hw', ← hh']
    exact inUse_congr (fun he => by rw [he.1, he.2]) (h.tgrid hs) (huv.tgrid hu)
  · obtain ⟨hw, hh⟩ := h.rgDims hs
    obtain ⟨hw', hh'⟩ := huv.rgDims hu
    rw [← hw, ← hh, ← hw', ← hh']
    exact inUse_congr (fun he => by rw [he.1, he.2]) (h.rgrid hs) (huv.rgrid hu)
  · rw [← h.obufLen hs, ← huv.obufLen hu]
    exact inUse_congr id (h.obuf hs) (huv.obuf hu)

theorem same_renew (h : SameToHost s t) (huv : SameToHost u v) : SameToHost (renew s u) (renew t v) :=
  { huv with gens := nextGens_same h huv }

/-! ### Host reads (R48) -/

theorem same_answer (h : SameToHost s t) (d : HostData) : SameToHost (answer d s) (answer d t) :=
  { h with hostData := rfl }

theorem same_answerFree (h : SameToHost s t) (free : Nat → HostData) :
    SameToHost (answerFree free s) (answerFree free t) :=
  { h with
    hostData := by rw [answerFree_hostData, answerFree_hostData, h.freeCount]
    freeCount := by rw [answerFree_freeCount, answerFree_freeCount, h.freeCount] }

/-- A register behind a valid flag of 1, or without one, reads the same. -/
theorem registerValue_same (h : SameToHost s t) : ∀ {n : Nat}, registerValid n s.status = true →
    registerValue n s = registerValue n t
  | 0, _ => rfl
  | 1, _ => by simp only [registerValue, h.status]
  | 2, _ => by simp only [registerValue, h.err]
  | 3, _ => by simp only [registerValue, h.errInfo]
  | 4, hv => h.ibufLen hv
  | 5, hv => by simp only [registerValue, h.imeta hv]
  | 6, hv => by simp only [registerValue, h.imeta hv]
  | 7, hv => by simp only [registerValue, h.imeta hv]
  | 8, hv => by simp only [registerValue, h.imeta hv]
  | 9, hv => by simp only [registerValue, h.imeta hv]
  | 10, hv => by simp only [registerValue, h.imeta hv]
  | 11, hv => by simp only [registerValue, h.imeta hv]
  | 12, hv => by simp only [registerValue, h.imeta hv]
  | 13, hv => by simp only [registerValue, h.imeta hv]
  | 14, hv => by simp only [registerValue, h.palLen hv]
  | 15, hv => (h.ogDims hv).1
  | 16, hv => (h.ogDims hv).2
  | 17, hv => (h.tgDims hv).1
  | 18, hv => (h.tgDims hv).2
  | 19, hv => (h.rgDims hv).1
  | 20, hv => (h.rgDims hv).2
  | 21, hv => h.obufLen hv
  | _ + 22, _ => rfl

theorem readRegister_same (h : SameToHost s t) (n : BitVec 5) :
    SameToHost (readRegister n s) (readRegister n t) := by
  rw [readRegister, readRegister, ← h.status]
  split
  · next hn =>
    have hv : registerValid n.toNat s.status = true := hn.elim (fun h1 => by subst h1; rfl) fun h2 => h2.2
    rw [registerValue_same h hv]
    exact same_answer h _
  · exact same_answerFree h _

theorem readLocation_same {α : Type} (h : SameToHost s t) {valid inUse inUse' : Bool} {m m' : Memory α} {a a' : Nat}
    (hv : valid = true → (if inUse then Memory.read m a else none) = if inUse' then Memory.read m' a' else none)
    (wrap : α → HostData) (rest : α) (free : Nat → α) :
    SameToHost (readLocation valid inUse m a wrap rest free s) (readLocation valid inUse' m' a' wrap rest free t) := by
  rw [readLocation, readLocation, ← h.status]
  split
  · next hc =>
    rw [hv (Bool.and_eq_true_iff.1 hc).1]
    exact same_answer h _
  · exact same_answerFree h _

/-- A location of a linear memory reads the same inside the range in use. -/
theorem readInUse_same {α : Type} {n n' : Nat} {m m' : Memory α} (hn : n = n') (hm : Memory.sameBelow n m m')
    (a : Nat) :
    (if decide (a < n) then Memory.read m a else none) = if decide (a < n') then Memory.read m' a else none := by
  subst hn
  simp only [decide_eq_true_eq]
  split
  · next ha => exact hm a ha
  · rfl

theorem pixelIndex_lt {x y w h : Nat} (hx : x < w) (hy : y < h) : y * w + x < w * h :=
  calc y * w + x < y * w + w := by omega
    _ = (y + 1) * w := (Nat.succ_mul y w).symm
    _ ≤ h * w := Nat.mul_le_mul_right w hy
    _ = w * h := Nat.mul_comm h w

theorem readPixelOf_same (hst : SameToHost s t) (name : GridName) {valid : Bool} {m m' : Memory RGB} {w w' h h' : Nat}
    (hd : valid = true → w = w' ∧ h = h') (hm : valid = true → Memory.sameBelow (w * h) m m') (n x y : Nat) :
    SameToHost (readPixelOf name valid m w h n x y s) (readPixelOf name valid m' w' h' n x y t) := by
  refine readLocation_same hst (fun hv => ?_) ..
  obtain ⟨rfl, rfl⟩ := hd hv
  simp only [Bool.and_eq_true, decide_eq_true_eq]
  split
  · next hxy => exact hm hv _ (pixelIndex_lt hxy.1 hxy.2)
  · rfl

theorem readPixel_same (h : SameToHost s t) (g : GridName) (x y : Nat) :
    SameToHost (readPixel g x y s) (readPixel g x y t) := by
  cases g with
  | original =>
    rw [readPixel, readPixel, ← h.status, ← h.gens]
    exact readPixelOf_same h _ h.ogDims h.ogrid ..
  | transformed =>
    rw [readPixel, readPixel, ← h.status, ← h.gens]
    exact readPixelOf_same h _ h.tgDims h.tgrid ..
  | resampled =>
    rw [readPixel, readPixel, ← h.status, ← h.gens]
    exact readPixelOf_same h _ h.rgDims h.rgrid ..

/-! ### A step -/

theorem same_loadFile (h : SameToHost s t) (bytes : List Byte) :
    SameToHost (renewIbuf (loadFile bytes s)) (renewIbuf (loadFile bytes t)) :=
  { same_startWith_clearMeta h with
    status := by simp only [renewIbuf_status, loadFile_status, h.status]
    gens := by simp only [renewIbuf_gens, loadFile_gens, h.gens]
    ibufLen := fun _ => rfl
    ibuf := fun _ => sameBelow_writeAll s.ibuf t.ibuf bytes Nat.le.refl }

theorem loadbuf_same (h : SameToHost s t) (bytes : List Byte) : SameOutcome (loadbuf bytes s) (loadbuf bytes t) := by
  rw [loadbuf, loadbuf, ← h.status, ← h.cfg]
  split
  · exact .refused _
  · split
    · exact .refused _
    · exact .next (same_loadFile h bytes)

theorem issueWord_same (h : SameToHost s t) (w : Word) : SameOutcome (issueWord w s) (issueWord w t) := by
  rw [issueWord, issueWord, ← h.status]
  split
  · exact .next h
  · split
    · next i _ => exact andThen_same (exec_same i h) fun _ huv => .next (same_renew h huv)
    · exact .next (same_takeError h ..)

theorem same_pending (h : SameToHost s t) (p : List HostAction) :
    SameToHost { s with pending := p } { t with pending := p } := { h with pending := rfl }

theorem same_resetCore (h : SameToHost s t) : SameToHost (resetCore s) (resetCore t) where
  cfg := h.cfg
  status := rfl
  err := rfl
  errInfo := rfl
  pending := h.pending
  hostData := h.hostData
  freeCount := h.freeCount
  gens := h.gens
  imeta := nofun
  ibufLen := nofun
  ibuf := nofun
  palLen := nofun
  pal := nofun
  ogDims := nofun
  ogrid := nofun
  tgDims := nofun
  tgrid := nofun
  rgDims := nofun
  rgrid := nofun
  obufLen := nofun
  obuf := nofun

theorem perform_same (h : SameToHost s t) (a : HostAction) : SameOutcome (perform a s) (perform a t) := by
  cases a with
  | loadbuf bytes => exact loadbuf_same h bytes
  | writeReg n v =>
    rw [perform, perform, writeRegister, writeRegister]
    split
    · exact issueWord_same h v
    · exact .next h
  | readReg n => exact .next (readRegister_same h n)
  | readIbuf k =>
    rw [perform, perform, readIbuf, readIbuf, ← h.status, ← h.gens]
    exact .next (readLocation_same h (fun hv => readInUse_same (h.ibufLen hv) (h.ibuf hv) k) ..)
  | readPal k =>
    rw [perform, perform, readPal, readPal, ← h.status, ← h.gens]
    exact .next (readLocation_same h (fun hv => readInUse_same (by rw [h.palLen hv]) (h.pal hv) k) ..)
  | readPixel g x y => exact .next (readPixel_same h g x y)
  | readObuf k =>
    rw [perform, perform, readObuf, readObuf, ← h.status, ← h.gens]
    exact .next (readLocation_same h (fun hv => readInUse_same (h.obufLen hv) (h.obuf hv) k) ..)
  | reset => exact .next (same_resetCore h)

/-- Settles O58: two states a host cannot tell apart have the same next action, and every host action does the same to
them as far as the host can see. -/
theorem unspecifiedStateIsUnobservable : Obligations.UnspecifiedStateIsUnobservable := by
  unfold Obligations.UnspecifiedStateIsUnobservable
  intro s t h
  cases hp : s.pending with
  | nil =>
    have ht : t.pending = [] := h.pending ▸ hp
    rw [step, step, hp, ht]
    exact .next h
  | cons a rest =>
    rw [step_cons hp, step_cons (h.pending ▸ hp)]
    exact perform_same (same_pending h rest) a

end Sys2Proof.Machine

/-! ## The same command again (R71)

A command that completes leaves its inputs as they were, so the second one computes the same, and writing the same items
over themselves changes nothing. -/

namespace Sys2Proof.Machine

variable {s t : State}

/-! ### What commands leave unchanged (R22, R33, R36, R49) -/

/-- `t` has the file, the configuration, the host's side and the generations of `s`. -/
structure KeepsFile (s t : State) : Prop where
  ibuf : t.ibuf = s.ibuf
  ibufLen : t.ibufLen = s.ibufLen
  ibufValid : t.status.ibufValid = s.status.ibufValid
  cfg : t.cfg = s.cfg
  pending : t.pending = s.pending
  hostData : t.hostData = s.hostData
  freeCount : t.freeCount = s.freeCount
  gens : t.gens = s.gens

/-- `t` has the metadata of `s`. -/
structure KeepsMeta (s t : State) : Prop where
  imeta : t.imeta = s.imeta
  metaValid : t.status.metaValid = s.status.metaValid

/-- `t` has the palette and the original grid of `s`. -/
structure KeepsOriginal (s t : State) : Prop where
  pal : t.pal = s.pal
  palLen : t.palLen = s.palLen
  ogrid : t.ogrid = s.ogrid
  ogW : t.ogW = s.ogW
  ogH : t.ogH = s.ogH
  palValid : t.status.palValid = s.status.palValid
  ogridValid : t.status.ogridValid = s.status.ogridValid

theorem KeepsFile.trans {a b c : State} (h : KeepsFile a b) (h' : KeepsFile b c) : KeepsFile a c :=
  ⟨h'.ibuf.trans h.ibuf, h'.ibufLen.trans h.ibufLen, h'.ibufValid.trans h.ibufValid, h'.cfg.trans h.cfg,
    h'.pending.trans h.pending, h'.hostData.trans h.hostData, h'.freeCount.trans h.freeCount, h'.gens.trans h.gens⟩

theorem KeepsMeta.trans {a b c : State} (h : KeepsMeta a b) (h' : KeepsMeta b c) : KeepsMeta a c :=
  ⟨h'.imeta.trans h.imeta, h'.metaValid.trans h.metaValid⟩

theorem KeepsOriginal.trans {a b c : State} (h : KeepsOriginal a b) (h' : KeepsOriginal b c) : KeepsOriginal a c :=
  ⟨h'.pal.trans h.pal, h'.palLen.trans h.palLen, h'.ogrid.trans h.ogrid, h'.ogW.trans h.ogW, h'.ogH.trans h.ogH,
    h'.palValid.trans h.palValid, h'.ogridValid.trans h.ogridValid⟩

theorem hparse_keepsFile (hx : hparseCommand s = .next t) : KeepsFile s t := by
  rcases hparse_cases hx with ⟨bit, -, rfl⟩ | ⟨-, buf, -, ⟨m, -, rfl⟩ | ⟨e, -, rfl⟩⟩ <;> constructor <;> simp

theorem palrd_keeps (hx : palrdCommand s = .next t) : KeepsFile s t ∧ KeepsMeta s t := by
  rcases palrd_cases hx with
    ⟨bit, -, rfl⟩ | ⟨-, -, ⟨-, rfl⟩ | ⟨-, buf, -, ⟨p, -, rfl⟩ | ⟨e, -, rfl⟩⟩⟩ <;> constructor <;> constructor <;> simp

theorem pxdec_keeps (hx : pxdecCommand s = .next t) : KeepsFile s t ∧ KeepsMeta s t := by
  rcases pxdec_cases hx with
    ⟨bit, -, rfl⟩ | ⟨-, -, -, d, pal, buf, -, -, -, ⟨g, -, rfl⟩ | ⟨e, -, rfl⟩⟩ <;> constructor <;> constructor <;> simp

/-- `t` has what a rendering command is made from. -/
def KeepsInputs (s t : State) : Prop := KeepsFile s t ∧ KeepsMeta s t ∧ KeepsOriginal s t

theorem KeepsInputs.trans {a b c : State} (h : KeepsInputs a b) (h' : KeepsInputs b c) : KeepsInputs a c :=
  ⟨h.1.trans h'.1, h.2.1.trans h'.2.1, h.2.2.trans h'.2.2⟩

theorem xform_keepsInputs {b : Int} {er eg eb : Bool} (hx : xformCommand b er eg eb s = .next t) :
    KeepsInputs s t := by
  rcases xform_cases hx with ⟨bit, -, rfl⟩ | ⟨-, g, -, rfl⟩ <;> refine ⟨?_, ?_, ?_⟩ <;> constructor <;> simp

theorem resize_keepsInputs {p : Int} (hx : resizeCommand p s = .next t) : KeepsInputs s t := by
  rcases resize_cases hx with
    ⟨bit, -, rfl⟩ | ⟨-, ⟨-, rfl⟩ | ⟨-, g, -, ⟨r, -, rfl⟩ | ⟨e, -, rfl⟩⟩⟩ <;>
    refine ⟨?_, ?_, ?_⟩ <;> constructor <;> simp

theorem ppmenc_keepsInputs (hx : ppmencCommand s = .next t) : KeepsInputs s t := by
  rcases ppmenc_cases hx with ⟨bit, -, rfl⟩ | ⟨-, g, -, ⟨l, -, rfl⟩ | ⟨e, -, rfl⟩⟩ <;>
    refine ⟨?_, ?_, ?_⟩ <;> constructor <;> simp

theorem exec_keepsFile {i : Instr} (hi : i.wf = true) (hx : exec i s = .next t) : KeepsFile s t :=
  exec_relation (R := KeepsFile) KeepsFile.trans hparse_keepsFile (fun h => (palrd_keeps h).1)
    (fun h => (pxdec_keeps h).1) (fun _ h => (xform_keepsInputs h).1)
    (fun _ h => (resize_keepsInputs h).1) (fun h => (ppmenc_keepsInputs h).1) hi hx

theorem exec_keepsInputs {i : Instr} (hr : isRendering i = true) (hx : exec i s = .next t) : KeepsInputs s t := by
  cases i with
  | xform b er eg eb => exact xform_keepsInputs hx
  | xformId => exact xform_keepsInputs hx
  | resize p => exact resize_keepsInputs hx
  | ppmenc => exact ppmenc_keepsInputs hx
  | render b er eg eb p =>
    obtain ⟨u, hu, hx⟩ := andThen_next_iff.1 hx
    obtain ⟨v, hv, hx⟩ := andThen_next_iff.1 hx
    exact (xform_keepsInputs hu).trans ((resize_keepsInputs hv).trans (ppmenc_keepsInputs hx))
  | hparse => cases hr
  | palrd => cases hr
  | pxdec => cases hr
  | pxdec24 => cases hr
  | pxdec8 => cases hr
  | pxdec4 => cases hr
  | pxdec1 => cases hr
  | decode => cases hr

theorem exec_keepsMeta {i : Instr} (hh : i ≠ .hparse) (hd : i ≠ .decode) (hx : exec i s = .next t) : KeepsMeta s t := by
  by_cases hr : isRendering i = true
  · exact (exec_keepsInputs hr hx).2.1
  · cases i with
    | hparse => exact absurd rfl hh
    | decode => exact absurd rfl hd
    | palrd => exact (palrd_keeps hx).2
    | pxdec => exact (pxdec_keeps hx).2
    | pxdec24 => exact (pxdec_keeps hx).2
    | pxdec8 => exact (pxdec_keeps hx).2
    | pxdec4 => exact (pxdec_keeps hx).2
    | pxdec1 => exact (pxdec_keeps hx).2
    | xform b er eg eb => exact absurd rfl hr
    | xformId => exact absurd rfl hr
    | resize p => exact absurd rfl hr
    | ppmenc => exact absurd rfl hr
    | render b er eg eb p => exact absurd rfl hr

/-- Settles O18: each stage leaves its inputs, and what they were computed from, as they are. -/
theorem commandsKeepTheirInputs : Obligations.CommandsKeepTheirInputs := by
  unfold Obligations.CommandsKeepTheirInputs
  intro i s t hi hx
  obtain ⟨h1, h2, h3, h4, h5, h6, h7, h8⟩ := exec_keepsFile hi hx
  refine ⟨⟨h1, h2, h3⟩, ⟨h4, h5, h6, h7, h8⟩, fun hh hd => ?_, fun hr => ?_⟩
  · obtain ⟨hm, hv⟩ := exec_keepsMeta hh hd hx
    exact ⟨hm, hv⟩
  · obtain ⟨-, -, ⟨hp, hl, ho, hw, hh, hpv, hov⟩⟩ := exec_keepsInputs hr hx
    exact ⟨hp, hl, ho, hw, hh, hpv, hov⟩

theorem KeepsFile.fileOf_eq (h : KeepsFile s t) : fileOf t = fileOf s := by rw [fileOf, fileOf, h.ibuf, h.ibufLen]

theorem KeepsOriginal.ogridOf_eq (h : KeepsOriginal s t) : ogridOf t = ogridOf s := by
  rw [ogridOf, ogridOf, h.ogrid, h.ogW, h.ogH]

/-! ### `DECODE` and `RENDER`, part by part (R122, R186) -/

/-- Only the last error counts (R31, R276). -/
@[simp] theorem takeError_takeError (e e' : Raise) (k k' : BitVec 4) (s : State) :
    takeError e k (takeError e' k' s) = takeError e k s := by
  rw [takeError_eq_endsInError, takeError_eq_endsInError, takeError_eq_endsInError]
  rfl

@[simp] theorem succeed_succeed (s : State) : succeed (succeed s) = succeed s := by
  rw [succeed_eq_endsWell, succeed_eq_endsWell]
  rfl

theorem decode_missing (hi : s.status.ibufValid = false) :
    decodeCommand s = .next (takeError ⟨.inputNotValid, 1⟩ 0 s) := by
  have hm : missingHparse s.status = some 1 := by simp [missingHparse, hi]
  rw [decodeCommand, hparseCommand, frame_of_missing hm]
  rfl

section
variable {buf : List Byte} {m : Metadata} {d : Depth} {e : Raise} {p : List RGB}

theorem decode_badHeader (hi : s.status.ibufValid = true) (hf : fileOf s = .ok buf) (he : parseHeader buf = .error e) :
    decodeCommand s = .next (hparseEnd (.error e) s) := by
  rw [decodeCommand, hparse_eq hi hf, he]
  exact if_neg (errorCode_ne_zero e.kind)

@[simp] theorem hparseEnd_ok_imeta (m : Metadata) (s : State) : (hparseEnd (.ok m) s).imeta = m := rfl

@[simp] theorem hparseEnd_ok_metaValid (m : Metadata) (s : State) :
    (hparseEnd (.ok m) s).status.metaValid = true := rfl

@[simp] theorem palrdEnd_ok_palValid (p : List RGB) (s : State) : (palrdEnd (.ok p) s).status.palValid = true := rfl

/-- After a good header `DECODE` goes on with the metadata it gave. -/
theorem decode_goodHeader (hi : s.status.ibufValid = true) (hf : fileOf s = .ok buf) (hm : parseHeader buf = .ok m) :
    decodeCommand s = if indexed m then andThen (palrdCommand (hparseEnd (.ok m) s)) (unlessError pxdecCommand)
      else pxdecCommand (hparseEnd (.ok m) s) := by
  rw [decodeCommand, hparse_eq hi hf, hm]
  rfl

/-- `PALRD` inside `DECODE`. -/
theorem palrd_hparseEnd (hi : s.status.ibufValid = true) (hf : fileOf s = .ok buf) (hd : depthOf m.bpp = some d)
    (hx : indexed m = true) : palrdCommand (hparseEnd (.ok m) s) =
      .next (palrdEnd (readPalette s.cfg.palCap m buf) (hparseEnd (.ok m) s)) :=
  palrd_eq (s := hparseEnd (.ok m) s) (by simpa using hi) rfl hd hx (by simpa using hf)

theorem decode_badPalette (hi : s.status.ibufValid = true) (hf : fileOf s = .ok buf) (hm : parseHeader buf = .ok m)
    (hd : depthOf m.bpp = some d) (hx : indexed m = true) (he : readPalette s.cfg.palCap m buf = .error e) :
    decodeCommand s = .next (palrdEnd (.error e) (hparseEnd (.ok m) s)) := by
  rw [decode_goodHeader hi hf hm, if_pos hx, palrd_hparseEnd hi hf hd hx, he]
  exact if_neg (errorCode_ne_zero e.kind)

theorem decode_goodPalette (hi : s.status.ibufValid = true) (hf : fileOf s = .ok buf) (hm : parseHeader buf = .ok m)
    (hd : depthOf m.bpp = some d) (hx : indexed m = true) (hp : readPalette s.cfg.palCap m buf = .ok p) :
    decodeCommand s = .next
      (pxdecEnd (decodePixels s.cfg.gridCap d m p buf) (palrdEnd (.ok p) (hparseEnd (.ok m) s))) := by
  have hpal : paletteFor d (palrdEnd (.ok p) (hparseEnd (.ok m) s)) = .ok p := by
    rw [paletteFor_of_ne ((indexed_iff hd).1 hx)]
    exact paletteOf_storePal (readPalette_length_lt hp) _
  rw [decode_goodHeader hi hf hm, if_pos hx, palrd_hparseEnd hi hf hd hx, hp]
  exact pxdec_eq (s := palrdEnd (.ok p) (hparseEnd (.ok m) s)) (by simpa using hi) rfl (fun _ => rfl) hd hpal
    (by simpa using hf)

/-- At depth 24 `DECODE` has no palette to read. -/
theorem decode_trueColour (hi : s.status.ibufValid = true) (hf : fileOf s = .ok buf) (hm : parseHeader buf = .ok m)
    (hd : depthOf m.bpp = some .d24) :
    decodeCommand s = .next (pxdecEnd (decodePixels s.cfg.gridCap .d24 m [] buf) (hparseEnd (.ok m) s)) := by
  have hx : ¬indexed m = true := fun hx => (indexed_iff hd).1 hx rfl
  rw [decode_goodHeader hi hf hm, if_neg hx]
  exact pxdec_eq (s := hparseEnd (.ok m) s) (by simpa using hi) rfl (fun h => absurd h hx) hd rfl (by simpa using hf)

end

/-- `RENDER` without an input, in a state where nothing after OGRID is valid either. -/
theorem render_missing (ho : s.status.ogridValid = false) (ht : s.status.tgridValid = false)
    (hr : s.status.rgridValid = false) (b : Int) (er eg eb : Bool) (p : Int) :
    execRender b er eg eb p s = .next (takeError ⟨.inputNotValid, 6⟩ 0 s) := by
  have hx : missingXform s.status = some 4 := by simp [missingXform, ho]
  have hz (e : Raise) (k : BitVec 4) : missingResize (takeError e k s).status = some 5 := by simp [missingResize, ht]
  have hp (e : Raise) (k : BitVec 4) : missingPpmenc (takeError e k s).status = some 6 := by simp [missingPpmenc, hr]
  rw [execRender, xformCommand, frame_of_missing hx, andThen, resizeCommand, frame_of_missing (hz ..),
    takeError_takeError, andThen, ppmencCommand, frame_of_missing (hp ..), takeError_takeError]

section
variable {g r : Grid} {b : Int} {er eg eb : Bool} {p : Int} {e : Raise}

/-- After a good `XFORM` `RENDER` goes on with the grid it gave. -/
theorem render_eq (ho : s.status.ogridValid = true) (hg : ogridOf s = .ok g) :
    execRender b er eg eb p s =
      ppmencCommand (resizeEnd (resize s.cfg.gridCap p (transform s.cfg.numerics b er eg eb g))
        (xformEnd (transform s.cfg.numerics b er eg eb g) s)) := by
  have ht : tgridOf (xformEnd (transform s.cfg.numerics b er eg eb g) s) = .ok _ :=
    tgridOf_storeTgrid (transform_size hg ..) _
  rw [execRender, xform_eq ho hg]
  exact congrArg (andThen · ppmencCommand) (resize_eq (s := xformEnd _ s) rfl ht p)

/-- `RENDER` where the resized grid does not fit: `PPMENC` then misses its input. -/
theorem render_badResize (ho : s.status.ogridValid = true) (hg : ogridOf s = .ok g)
    (he : resize s.cfg.gridCap p (transform s.cfg.numerics b er eg eb g) = .error e) :
    execRender b er eg eb p s = .next (takeError ⟨.inputNotValid, 6⟩ 0
      (resizeEnd (.error e) (xformEnd (transform s.cfg.numerics b er eg eb g) s))) := by
  rw [render_eq ho hg, he]
  exact frame_of_missing (missing := missingPpmenc (resizeEnd (.error e) _).status) rfl ..

theorem render_goodResize (ho : s.status.ogridValid = true) (hg : ogridOf s = .ok g)
    (hr : resize s.cfg.gridCap p (transform s.cfg.numerics b er eg eb g) = .ok r) :
    execRender b er eg eb p s = .next (ppmencEnd (encodePpm s.cfg.obufCap r)
      (resizeEnd (.ok r) (xformEnd (transform s.cfg.numerics b er eg eb g) s))) := by
  rw [render_eq ho hg, hr]
  exact ppmenc_eq (s := resizeEnd (.ok r) (xformEnd _ s)) rfl (rgridOf_storeRgrid (resize_shape hr).2.2 _)

end

/-! ### Writing over what is there

A command's end, computed once more from itself, is itself. -/

theorem writeAll_again {α : Type} {m : Memory α} (h : Memory.wf m) (a : Nat) (l : List α) :
    Memory.writeAll (Memory.writeAll m a l) a l = Memory.writeAll m a l := writeAll_writeAll h a rfl

theorem hparseEnd_again (x : Except Raise Metadata) (s : State) : hparseEnd x (hparseEnd x s) = hparseEnd x s := by
  cases x <;> simp only [hparseEnd_ok, hparseEnd_error, endsWell, endsInError]

theorem badPalette_again (e : Raise) (m : Metadata) (s : State) :
    palrdEnd (.error e) (hparseEnd (.ok m) (palrdEnd (.error e) (hparseEnd (.ok m) s))) =
      palrdEnd (.error e) (hparseEnd (.ok m) s) := by
  simp only [hparseEnd_ok, palrdEnd_error, endsWell, endsInError]

section
variable (h : Inv s) (x : Except Raise Grid) (l : Except Raise (List Byte)) (m : Metadata)
include h

theorem palrdEnd_again (x : Except Raise (List RGB)) : palrdEnd x (palrdEnd x s) = palrdEnd x s := by
  cases x <;> simp only [palrdEnd_ok, palrdEnd_error, endsWell, endsInError, writeAll_again h.canonicalPal]

theorem pxdecEnd_again : pxdecEnd x (pxdecEnd x s) = pxdecEnd x s := by
  cases x <;> simp only [pxdecEnd_ok, pxdecEnd_error, endsWell, endsInError, writeAll_again h.canonicalOgrid]

theorem xformEnd_again (g : Grid) : xformEnd g (xformEnd g s) = xformEnd g s := by
  simp only [xformEnd_eq, endsWell, writeAll_again h.canonicalTgrid]

theorem resizeEnd_again : resizeEnd x (resizeEnd x s) = resizeEnd x s := by
  cases x <;> simp only [resizeEnd_ok, resizeEnd_error, endsWell, endsInError, writeAll_again h.canonicalRgrid]

theorem ppmencEnd_again : ppmencEnd l (ppmencEnd l s) = ppmencEnd l s := by
  cases l <;> simp only [ppmencEnd_ok, ppmencEnd_error, endsWell, endsInError, writeAll_again h.canonicalObuf]

theorem indexedDecode_again (p : List RGB) :
    pxdecEnd x (palrdEnd (.ok p) (hparseEnd (.ok m) (pxdecEnd x (palrdEnd (.ok p) (hparseEnd (.ok m) s))))) =
      pxdecEnd x (palrdEnd (.ok p) (hparseEnd (.ok m) s)) := by
  cases x <;> simp only [hparseEnd_ok, palrdEnd_ok, pxdecEnd_ok, pxdecEnd_error, endsWell, endsInError,
    writeAll_again h.canonicalPal, writeAll_again h.canonicalOgrid]

theorem trueColourDecode_again :
    pxdecEnd x (hparseEnd (.ok m) (pxdecEnd x (hparseEnd (.ok m) s))) = pxdecEnd x (hparseEnd (.ok m) s) := by
  cases x <;> simp only [hparseEnd_ok, pxdecEnd_ok, pxdecEnd_error, endsWell, endsInError,
    writeAll_again h.canonicalOgrid]

theorem badRender_again (e : Raise) (k : BitVec 4) (e' : Raise) (g : Grid) :
    takeError e' k (resizeEnd (.error e) (xformEnd g (takeError e' k (resizeEnd (.error e) (xformEnd g s))))) =
      takeError e' k (resizeEnd (.error e) (xformEnd g s)) := by
  simp only [takeError_eq_endsInError, xformEnd_eq, resizeEnd_error, endsWell, endsInError,
    writeAll_again h.canonicalTgrid]

theorem goodRender_again (g r : Grid) :
    ppmencEnd l (resizeEnd (.ok r) (xformEnd g (ppmencEnd l (resizeEnd (.ok r) (xformEnd g s))))) =
      ppmencEnd l (resizeEnd (.ok r) (xformEnd g s)) := by
  cases l <;> simp only [ppmencEnd_ok, ppmencEnd_error, xformEnd_eq, resizeEnd_ok, endsWell, endsInError,
    writeAll_again h.canonicalTgrid, writeAll_again h.canonicalRgrid, writeAll_again h.canonicalObuf]

end

/-! ### Each instruction again -/

/-- An input flag that was missing is missing still. -/
theorem frame_missing_again {missing : State → Option Nat} {bit : Nat} {start : State → State} {k : BitVec 4}
    {work : State → StageEnd} (hm : missing s = some bit) (hkeep : ∀ e k, missing (takeError e k s) = missing s)
    (hx : frame (missing s) start k work s = .next t) : frame (missing t) start k work t = .next t := by
  rw [frame_of_missing hm] at hx
  cases hx
  rw [frame_of_missing ((hkeep ..).trans hm), takeError_takeError]

theorem hparse_again (h : Inv s) (hx : hparseCommand s = .next t) : hparseCommand t = .next t := by
  cases hm : missingHparse s.status with
  | some bit => exact frame_missing_again (missing := fun s => missingHparse s.status) hm (fun _ _ => rfl) hx
  | none =>
    have hi := missingHparse_none.1 hm
    obtain ⟨buf, hf⟩ := h.file hi
    rw [hparse_eq hi hf] at hx
    cases hx
    rw [hparse_eq (by simpa using hi) (by simpa using hf), hparseEnd_again]

theorem palrd_again (h : Inv s) (hx : palrdCommand s = .next t) : palrdCommand t = .next t := by
  cases hm : missingPalrd s.status with
  | some bit => exact frame_missing_again (missing := fun s => missingPalrd s.status) hm (fun _ _ => rfl) hx
  | none =>
    obtain ⟨hi, hmeta⟩ := missingPalrd_none.1 hm
    obtain ⟨buf, hf⟩ := h.file hi
    obtain ⟨d, hd⟩ := (h.metaOk hmeta).depth_some
    by_cases hidx : indexed s.imeta = true
    · rw [palrd_eq hi hmeta hd hidx hf] at hx
      cases hx
      rw [palrd_eq (by simpa using hi) (by simpa using hmeta) (by simpa using hd) (by simpa using hidx)
        (by simpa using hf), palrdEnd_cfg, palrdEnd_imeta, palrdEnd_again h]
    · have h24 : d = .d24 := by_contra fun hne => hidx ((indexed_iff hd).2 hne)
      subst h24
      rw [palrd_trueColour hi hmeta hd] at hx
      cases hx
      rw [palrd_trueColour (by simpa using hi) (by simpa using hmeta) (by simpa using hd), succeed_succeed]

theorem pxdec_again (h : Inv s) (hx : pxdecCommand s = .next t) : pxdecCommand t = .next t := by
  cases hm : missingPxdec s.status s.imeta with
  | some bit => exact frame_missing_again (missing := fun s => missingPxdec s.status s.imeta) hm (fun _ _ => rfl) hx
  | none =>
    obtain ⟨hi, hmeta, hp⟩ := missingPxdec_none.1 hm
    obtain ⟨buf, hf⟩ := h.file hi
    obtain ⟨d, hd⟩ := (h.metaOk hmeta).depth_some
    obtain ⟨pal, hpal⟩ := h.paletteFor hd hp
    rw [pxdec_eq hi hmeta hp hd hpal hf] at hx
    cases hx
    rw [pxdec_eq (by simpa using hi) (by simpa using hmeta) (by simpa using hp) (by simpa using hd)
      (by simpa using hpal) (by simpa using hf), pxdecEnd_cfg, pxdecEnd_imeta, pxdecEnd_again h]

theorem xform_again {b : Int} {er eg eb : Bool} (h : Inv s) (hx : xformCommand b er eg eb s = .next t) :
    xformCommand b er eg eb t = .next t := by
  cases hm : missingXform s.status with
  | some bit => exact frame_missing_again (missing := fun s => missingXform s.status) hm (fun _ _ => rfl) hx
  | none =>
    have ho := missingXform_none.1 hm
    obtain ⟨g, hg⟩ := h.original ho
    rw [xform_eq ho hg] at hx
    cases hx
    rw [xform_eq (by simpa using ho) (by simpa using hg), xformEnd_cfg, xformEnd_again h]

theorem resize_again {p : Int} (h : Inv s) (hx : resizeCommand p s = .next t) : resizeCommand p t = .next t := by
  cases hm : missingResize s.status with
  | some bit => exact frame_missing_again (missing := fun s => missingResize s.status) hm (fun _ _ => rfl) hx
  | none =>
    have ht := missingResize_none.1 hm
    obtain ⟨g, hg⟩ := h.transformed ht
    rw [resize_eq ht hg] at hx
    cases hx
    rw [resize_eq (by simpa using ht) (by simpa using hg), resizeEnd_cfg, resizeEnd_again h]

theorem ppmenc_again (h : Inv s) (hx : ppmencCommand s = .next t) : ppmencCommand t = .next t := by
  cases hm : missingPpmenc s.status with
  | some bit => exact frame_missing_again (missing := fun s => missingPpmenc s.status) hm (fun _ _ => rfl) hx
  | none =>
    have hr := missingPpmenc_none.1 hm
    obtain ⟨g, hg⟩ := h.resampled hr
    rw [ppmenc_eq hr hg] at hx
    cases hx
    rw [ppmenc_eq (by simpa using hr) (by simpa using hg), ppmencEnd_cfg, ppmencEnd_again h]

/-- `DECODE` computes everything anew from the file, which it leaves as it is. -/
theorem decode_again (h : Inv s) (hx : decodeCommand s = .next t) : decodeCommand t = .next t := by
  have hk : KeepsFile s t := exec_keepsFile (i := .decode) rfl hx
  have hcfg := hk.cfg
  cases hi : s.status.ibufValid with
  | false =>
    have hi' : t.status.ibufValid = false := hk.ibufValid.trans hi
    rw [decode_missing hi] at hx
    cases hx
    rw [decode_missing hi', takeError_takeError]
  | true =>
    obtain ⟨buf, hf⟩ := h.file hi
    have hi' : t.status.ibufValid = true := hk.ibufValid.trans hi
    have hf' : fileOf t = .ok buf := hk.fileOf_eq.trans hf
    cases hm : parseHeader buf with
    | error e =>
      rw [decode_badHeader hi hf hm] at hx
      cases hx
      rw [decode_badHeader hi' hf' hm, hparseEnd_again]
    | ok m =>
      obtain ⟨d, hd⟩ := (parseHeader_metaOk hm).depth_some
      by_cases hidx : indexed m = true
      · cases hp : readPalette s.cfg.palCap m buf with
        | error e =>
          rw [decode_badPalette hi hf hm hd hidx hp] at hx
          cases hx
          rw [decode_badPalette hi' hf' hm hd hidx (by rwa [hcfg]), badPalette_again]
        | ok p =>
          rw [decode_goodPalette hi hf hm hd hidx hp] at hx
          cases hx
          rw [decode_goodPalette hi' hf' hm hd hidx (by rwa [hcfg]), hcfg, indexedDecode_again h]
      · have h24 : d = .d24 := by_contra fun hne => hidx ((indexed_iff hd).2 hne)
        subst h24
        rw [decode_trueColour hi hf hm hd] at hx
        cases hx
        rw [decode_trueColour hi' hf' hm hd, hcfg, trueColourDecode_again h]

/-- `RENDER` computes everything anew from OGRID, which it leaves as it is. -/
theorem render_again {b : Int} {er eg eb : Bool} {p : Int} (h : Inv s) (hx : execRender b er eg eb p s = .next t) :
    execRender b er eg eb p t = .next t := by
  have hk : KeepsInputs s t := exec_keepsInputs (i := .render b er eg eb p) rfl hx
  have hcfg := hk.1.cfg
  cases ho : s.status.ogridValid with
  | false =>
    have ht : s.status.tgridValid = false := by
      rw [Bool.eq_false_iff]
      exact fun hv => absurd (h.chained.tgridNeedsOgrid hv) (by simp [ho])
    have hr : s.status.rgridValid = false := by
      rw [Bool.eq_false_iff]
      exact fun hv => absurd (h.chained.rgridNeedsTgrid hv) (by simp [ht])
    rw [render_missing ho ht hr] at hx
    cases hx
    rw [render_missing (by simpa using ho) (by simpa using ht) (by simpa using hr), takeError_takeError]
  | true =>
    obtain ⟨g, hg⟩ := h.original ho
    have ho' : t.status.ogridValid = true := hk.2.2.ogridValid.trans ho
    have hg' : ogridOf t = .ok g := hk.2.2.ogridOf_eq.trans hg
    cases hr : resize s.cfg.gridCap p (transform s.cfg.numerics b er eg eb g) with
    | error e =>
      rw [render_badResize ho hg hr] at hx
      cases hx
      rw [render_badResize ho' hg' (by rwa [hcfg]), hcfg, badRender_again h]
    | ok r =>
      rw [render_goodResize ho hg hr] at hx
      cases hx
      rw [render_goodResize ho' hg' (by rwa [hcfg]), hcfg, goodRender_again h]

theorem exec_again {i : Instr} (h : Inv s) (hx : exec i s = .next t) : exec i t = .next t := by
  cases i with
  | hparse => exact hparse_again h hx
  | palrd => exact palrd_again h hx
  | pxdec => exact pxdec_again h hx
  | pxdec24 => exact pxdec_again h hx
  | pxdec8 => exact pxdec_again h hx
  | pxdec4 => exact pxdec_again h hx
  | pxdec1 => exact pxdec_again h hx
  | xform b er eg eb => exact xform_again h hx
  | xformId => exact xform_again h hx
  | resize p => exact resize_again h hx
  | ppmenc => exact ppmenc_again h hx
  | decode => exact decode_again h hx
  | render b er eg eb p => exact render_again h hx

/-- A word issued twice: the second step takes it from the queue and changes nothing else, the generations included. -/
theorem step_again {w : Word} {rest : List HostAction} (h : Inv s) (hp : s.pending = .issue w :: .issue w :: rest)
    (hx : step s = .next t) : step t = .next { t with pending := rest } := by
  let s' : State := { s with pending := .issue w :: rest }
  have h' : Inv s' := inv_hostSide h (.issue w :: rest) s.hostData s.freeCount s.gens
  cases hd : decode w with
  | ok i =>
    rw [step_legal hp h.idle hd] at hx
    obtain ⟨u, hu, hx⟩ := andThen_next_iff.1 hx
    cases hx
    have hup : u.pending = .issue w :: rest := (exec_keepsFile (decode_wf hd) hu).pending
    have hself : nextGens (beside rest (nextGens s' u) u) (beside rest (nextGens s' u) u) = nextGens s' u :=
      congrArg State.gens (renew_self (beside rest (nextGens s' u) u))
    have hren : renew s' u = beside (.issue w :: rest) (nextGens s' u) u := by rw [renew, beside, ← hup]
    refine Eq.trans (congrArg step hren) ?_
    rw [step_issue rest _ (exec_idle (decode_wf hd) hu) hd, exec_again h' hu, andThen, hself]
    rfl
  | error r =>
    rw [step_illegal hp h.idle hd] at hx
    cases hx
    rw [step_illegal (rest := rest) rfl rfl hd]
    exact congrArg (fun u : State => Host.Outcome.next { u with pending := rest }) (takeError_takeError ..)

/-- Settles O59: a command leaves its inputs as they were, and what it computed is written over itself. -/
theorem reissueChangesNothing : Obligations.ReissueChangesNothing := by
  unfold Obligations.ReissueChangesNothing
  exact ⟨fun i s t _ h hx => exec_again h hx, fun s t w rest h hp hx => step_again h hp hx⟩

end Sys2Proof.Machine

/-! ## The errors of the table, and the commands that complete -/

namespace Sys2Proof.Machine

variable {s t : State}

/-! ### The causes of the units' errors (R132, R155, R169, R175, R228, R245) -/

theorem memRead_four_lt (buf : List Byte) (a : Nat) : memRead buf a 4 < 2 ^ 32 := memRead_lt buf 4 a

theorem memRead_two_lt (buf : List Byte) (a : Nat) : memRead buf a 2 < 2 ^ 16 := memRead_lt buf 2 a

theorem parseHeader_error_cases {buf : List Byte} {e : Raise} (h : parseHeader buf = .error e) :
    e = ⟨.invalidFormat, 1⟩ ∨ e = ⟨.invalidFormat, 2⟩ ∨ e = ⟨.invalidFormat, 3⟩ ∨
    (∃ n, e = ⟨.unsupportedFeature, n⟩ ∧ n ≠ 0 ∧ n < 2 ^ 32) ∨
    (∃ n, e = ⟨.unsupportedDepth, n⟩ ∧ n < 2 ^ 16 ∧ n ∉ [1, 4, 8, 24]) := by
  simp only [parseHeader] at h
  split at h
  · cases h; exact .inl rfl
  · split at h
    · cases h; exact .inr (.inl rfl)
    · split at h
      · next hc => cases h; exact .inr (.inr (.inr (.inl ⟨_, rfl, hc, memRead_four_lt buf 30⟩)))
      · split at h
        · next hb => cases h; exact .inr (.inr (.inr (.inr ⟨_, rfl, memRead_two_lt buf 28, hb⟩)))
        · split at h
          · cases h; exact .inr (.inr (.inl rfl))
          · cases h

/-- A palette index is at most a byte (R172 to R174). -/
theorem pixelOf_error_cases {d : Depth} {buf : List Byte} {pal : List RGB} {b x : Nat} {e : Raise}
    (h : pixelOf d buf pal b x = .error e) : ∃ i < 256, e = ⟨.paletteIndexOutOfRange, i⟩ := by
  cases d with
  | d24 => cases h
  | d8 => exact ⟨_, (byteAt buf (b + x)).isLt, (lookup_error_iff.1 h).2⟩
  | d4 =>
    refine ⟨_, ?_, (lookup_error_iff.1 h).2⟩
    simp only [index4]
    split
    · exact Nat.lt_trans (BitVec.isLt _) (by decide)
    · exact Nat.lt_trans (BitVec.isLt _) (by decide)
  | d1 => exact ⟨_, Nat.lt_of_le_of_lt (Bool.toNat_le _) (by decide), (lookup_error_iff.1 h).2⟩

theorem decodePixels_error_cases {cap : Capacity} {d : Depth} {m : Metadata} {pal : List RGB} {buf : List Byte}
    {e : Raise} (h : decodePixels cap d m pal buf = .error e) :
    e = ⟨.truncatedData, 2⟩ ∨ e = ⟨.capacityExceeded, 2⟩ ∨ ∃ i < 256, e = ⟨.paletteIndexOutOfRange, i⟩ := by
  simp only [decodePixels] at h
  split at h
  · cases h; exact .inl rfl
  · split at h
    · cases h; exact .inr (.inl rfl)
    · split at h
      · next hc =>
        cases h
        obtain ⟨_, r, _, _, _, hr⟩ := collect_eq_error_iff.1 hc
        obtain ⟨_, x, _, _, _, hx⟩ := collect_eq_error_iff.1 hr
        exact .inr (.inr (pixelOf_error_cases hx))
      · cases h

/-! ### Every command word ends with a combination of the table (R31, R260) -/

/-- What `t` reports is in the table, for the command word `w`. -/
def Reports (w : Word) (t : State) : Prop := ErrorReport w t.err.code.toNat t.err.stage.toNat t.errInfo.toNat

variable {w : Word}

theorem reports_succeed (s : State) : Reports w (succeed s) := .inl ⟨rfl, rfl, rfl⟩

theorem reports_takeError {kind : ErrorKind} {n : Nat} {k : BitVec 4} (hn : n < 2 ^ 32)
    (h : ErrorReport w (errorCode kind).toNat k.toNat n) (s : State) : Reports w (takeError ⟨kind, n⟩ k s) := by
  have hinfo : (BitVec.ofNat 32 n).toNat = n := by rw [BitVec.toNat_ofNat, Nat.mod_eq_of_lt hn]
  rwa [Reports, takeError_err, takeError_errInfo, hinfo]

/-- The bit of a missing flag is one of 1 to 6 (R99). -/
theorem reports_missing {bit : Nat} (h : 1 ≤ bit ∧ bit ≤ 6) (s : State) :
    Reports w (takeError ⟨.inputNotValid, bit⟩ 0 s) :=
  reports_takeError (by omega) (by simp [ErrorReport, errorCode, h]) s

theorem missingHparse_bit {st : Status} {bit : Nat} (h : missingHparse st = some bit) : 1 ≤ bit ∧ bit ≤ 6 := by
  simp only [missingHparse] at h
  split at h <;> cases h
  simp

theorem missingPalrd_bit {st : Status} {bit : Nat} (h : missingPalrd st = some bit) : 1 ≤ bit ∧ bit ≤ 6 := by
  simp only [missingPalrd] at h
  split at h
  · cases h; simp
  · split at h <;> cases h
    simp

theorem missingPxdec_bit {st : Status} {m : Metadata} {bit : Nat} (h : missingPxdec st m = some bit) :
    1 ≤ bit ∧ bit ≤ 6 := by
  simp only [missingPxdec] at h
  split at h
  · cases h; simp
  · split at h
    · cases h; simp
    · split at h <;> cases h
      simp

theorem missingXform_bit {st : Status} {bit : Nat} (h : missingXform st = some bit) : 1 ≤ bit ∧ bit ≤ 6 := by
  simp only [missingXform] at h
  split at h <;> cases h
  simp

theorem missingResize_bit {st : Status} {bit : Nat} (h : missingResize st = some bit) : 1 ≤ bit ∧ bit ≤ 6 := by
  simp only [missingResize] at h
  split at h <;> cases h
  simp

theorem missingPpmenc_bit {st : Status} {bit : Nat} (h : missingPpmenc st = some bit) : 1 ≤ bit ∧ bit ≤ 6 := by
  simp only [missingPpmenc] at h
  split at h <;> cases h
  simp

theorem hparse_reports (hx : hparseCommand s = .next t) : Reports w t := by
  rcases hparse_cases hx with ⟨bit, hm, rfl⟩ | ⟨-, buf, -, ⟨m, -, rfl⟩ | ⟨e, he, rfl⟩⟩
  · exact reports_missing (missingHparse_bit hm) s
  · exact reports_succeed _
  · rcases parseHeader_error_cases he with rfl | rfl | rfl | ⟨n, rfl, h0, hn⟩ | ⟨n, rfl, hn, hmem⟩
    · exact reports_takeError (by decide) (by simp [ErrorReport, errorCode]) _
    · exact reports_takeError (by decide) (by simp [ErrorReport, errorCode]) _
    · exact reports_takeError (by decide) (by simp [ErrorReport, errorCode]) _
    · exact reports_takeError hn (by simp [ErrorReport, errorCode, h0]) _
    · exact reports_takeError (by omega) (.inr (.inr (.inr (.inl ⟨rfl, rfl, hn, hmem⟩)))) _

theorem palrd_reports (hx : palrdCommand s = .next t) : Reports w t := by
  rcases palrd_cases hx with
    ⟨bit, hm, rfl⟩ | ⟨-, -, ⟨-, rfl⟩ | ⟨-, buf, -, ⟨p, -, rfl⟩ | ⟨e, he, rfl⟩⟩⟩
  · exact reports_missing (missingPalrd_bit hm) s
  · exact reports_succeed _
  · exact reports_succeed _
  · rcases readPalette_error he with rfl | rfl
    · exact reports_takeError (by decide) (by simp [ErrorReport, errorCode]) _
    · exact reports_takeError (by decide) (by simp [ErrorReport, errorCode]) _

theorem pxdec_reports (hx : pxdecCommand s = .next t) : Reports w t := by
  rcases pxdec_cases hx with
    ⟨bit, hm, rfl⟩ | ⟨-, -, -, d, pal, buf, -, -, -, ⟨g, -, rfl⟩ | ⟨e, he, rfl⟩⟩
  · exact reports_missing (missingPxdec_bit hm) s
  · exact reports_succeed _
  · rcases decodePixels_error_cases he with rfl | rfl | ⟨i, hi, rfl⟩
    · exact reports_takeError (by decide) (by simp [ErrorReport, errorCode]) _
    · exact reports_takeError (by decide) (by simp [ErrorReport, errorCode]) _
    · exact reports_takeError (by omega) (by simp [ErrorReport, errorCode, hi]) _

theorem xform_reports {b : Int} {er eg eb : Bool} (hx : xformCommand b er eg eb s = .next t) : Reports w t := by
  rcases xform_cases hx with ⟨bit, hm, rfl⟩ | ⟨-, g, -, rfl⟩
  · exact reports_missing (missingXform_bit hm) s
  · exact reports_succeed _

theorem resize_reports {p : Int} (hx : resizeCommand p s = .next t) : Reports w t := by
  rcases resize_cases hx with
    ⟨bit, hm, rfl⟩ | ⟨-, ⟨-, rfl⟩ | ⟨-, g, -, ⟨r, -, rfl⟩ | ⟨e, he, rfl⟩⟩⟩
  · exact reports_missing (missingResize_bit hm) s
  · exact reports_succeed _
  · exact reports_succeed _
  · rw [resize_error he]
    exact reports_takeError (by decide) (by simp [ErrorReport, errorCode]) _

theorem ppmenc_reports (hx : ppmencCommand s = .next t) : Reports w t := by
  rcases ppmenc_cases hx with ⟨bit, hm, rfl⟩ | ⟨-, g, -, ⟨l, -, rfl⟩ | ⟨e, he, rfl⟩⟩
  · exact reports_missing (missingPpmenc_bit hm) s
  · exact reports_succeed _
  · rw [encodePpm_error he]
    exact reports_takeError (by decide) (by simp [ErrorReport, errorCode]) _

/-- The last stage of an instruction is what reports. -/
theorem exec_reports {i : Instr} (hi : i.wf = true) (hx : exec i s = .next t) : Reports w t :=
  exec_relation (R := fun _ t => Reports w t) (fun _ h => h) hparse_reports palrd_reports pxdec_reports
    (fun _ => xform_reports) (fun _ => resize_reports) ppmenc_reports hi hx

/-- Settles O16: each stage reports its own errors, and an illegal word itself. -/
theorem errorReportsFollowTheTable : Obligations.ErrorReportsFollowTheTable := by
  unfold Obligations.ErrorReportsFollowTheTable
  intro s t w rest hp hb hx
  cases hd : decode w with
  | ok i =>
    rw [step_legal hp hb hd] at hx
    obtain ⟨u, hu, hx⟩ := andThen_next_iff.1 hx
    cases hx
    exact exec_reports (t := u) (decode_wf hd) hu
  | error r =>
    rw [step_illegal hp hb hd] at hx
    cases hx
    exact reports_takeError (w := w) w.isLt (by simp [ErrorReport, errorCode]) _

/-! ### The fields of an accepted header (R23, R24, R131) -/

section
variable (buf : List Byte)

/-- A register holds a field of four bytes as it is. -/
theorem toNat_field (a : Nat) : (BitVec.ofNat 32 (memRead buf a 4)).toNat = memRead buf a 4 := by
  rw [BitVec.toNat_ofNat, Nat.mod_eq_of_lt (memRead_four_lt buf a)]

theorem headerFields_width : (headerFields buf).width.toInt = sext32 (memRead buf 18 4) :=
  toInt_ofInt_sext32 (memRead_four_lt buf 18)

theorem headerFields_height : ((headerFields buf).height.toNat : Int) = |sext32 (memRead buf 22 4)| := by
  have hb := sext32_bounds (memRead_four_lt buf 22)
  rw [headerFields, BitVec.toNat_ofNat, Nat.mod_eq_of_lt (by omega), Int.abs_eq_natAbs]

theorem headerFields_bpp : (headerFields buf).bpp.toNat = memRead buf 28 2 := by
  rw [headerFields, BitVec.toNat_ofNat, Nat.mod_eq_of_lt (memRead_two_lt buf 28)]

theorem headerFields_palcount : (headerFields buf).palcount.toNat =
    if memRead buf 46 4 = 0 ∧ memRead buf 28 2 ≤ 8 then 2 ^ memRead buf 28 2 else memRead buf 46 4 := by
  rw [headerFields, BitVec.toNat_ofNat, palcountOf]
  simp only [and_comm (a := memRead buf 28 2 ≤ 8)]
  split
  · next h => exact Nat.mod_eq_of_lt (Nat.lt_of_le_of_lt (Nat.pow_le_pow_right (by decide) h.2) (by decide))
  · exact Nat.mod_eq_of_lt (memRead_four_lt buf 46)

end

/-- Settles O20: the parser accepts the header, and `HPARSE` stores its fields. -/
theorem hparseExtractsTheHeader : Obligations.HparseExtractsTheHeader := by
  unfold Obligations.HparseExtractsTheHeader
  intro s buf hi hf hlen h0 h1 hcomp hbpp hw hh
  have hparse : parseHeader buf = .ok (headerFields buf) :=
    parseHeader_ok_iff.2 ⟨hlen, ⟨h0, h1⟩, hcomp, hbpp, hw, hh, rfl⟩
  refine ⟨hparseEnd (.ok (headerFields buf)) s, (hparse_eq hi hf).trans (by rw [hparse]), toNat_field buf 2,
    toNat_field buf 10, toNat_field buf 14, headerFields_width buf, headerFields_height buf, ?_, headerFields_bpp buf,
    ?_, headerFields_palcount buf, hparseEnd_ok ..⟩
  · exact decide_eq_true_iff
  · exact congrArg (BitVec.ofNat 32) hcomp

/-! ### `DECODE` on a good file (R186) -/

/-- At depth 24 no pixel looks at the palette (R171). -/
theorem decodePixels_d24 (cap : Capacity) (m : Metadata) (pal pal' : List RGB) (buf : List Byte) :
    decodePixels cap .d24 m pal buf = decodePixels cap .d24 m pal' buf := rfl

theorem read_writeAll_beyond {α : Type} (m : Memory α) (l : List α) {a : Nat} (ha : l.length ≤ a) :
    Memory.read (Memory.writeAll m 0 l) a = Memory.read m a := by
  rw [read_writeAll_zero, if_neg (by omega)]

theorem indexedDecode_eq (m : Metadata) (p : List RGB) (g : Grid) (s : State) :
    pxdecEnd (.ok g) (palrdEnd (.ok p) (hparseEnd (.ok m) s)) = endsWell
      { s.status with
        metaValid := true, palValid := true, ogridValid := true, tgridValid := false, rgridValid := false
        obufValid := false }
      { s with
        imeta := m, pal := Memory.writeAll s.pal 0 p, palLen := BitVec.ofNat 32 p.length
        ogrid := Memory.writeAll s.ogrid 0 g.px, ogW := g.w, ogH := g.h } := by
  simp only [pxdecEnd_ok, palrdEnd_ok, hparseEnd_ok, endsWell]

theorem trueColourDecode_eq (m : Metadata) (g : Grid) (s : State) :
    pxdecEnd (.ok g) (hparseEnd (.ok m) s) = endsWell
      { s.status with
        metaValid := true, palValid := false, ogridValid := true, tgridValid := false, rgridValid := false
        obufValid := false }
      { s with imeta := m, ogrid := Memory.writeAll s.ogrid 0 g.px, ogW := g.w, ogH := g.h } := by
  simp only [pxdecEnd_ok, hparseEnd_ok, endsWell]

/-- Settles O35: `DECODE` is the completion of its parts, whose results are read back. -/
theorem decodeCompletes : Obligations.DecodeCompletes := by
  unfold Obligations.DecodeCompletes
  intro s buf m d pal g hi hf hm hd hp hg
  have hsize := decodePixels_size hg
  by_cases hx : indexed m = true
  · have hle : m.bpp.toNat ≤ 8 := of_decide_eq_true hx
    have hlt := readPalette_length_lt (hp hle)
    have hreg : (BitVec.ofNat 32 pal.length).toNat = pal.length := by
      rw [BitVec.toNat_ofNat, Nat.mod_eq_of_lt hlt]
    have hdec := decode_goodPalette hi hf hm hd hx (hp hle)
    rw [hg, indexedDecode_eq] at hdec
    refine ⟨_, hdec, rfl, gridOf_writeAll s.ogrid hsize, fun _ => slice_writeAll s.pal pal hreg, fun h8 => by omega,
      fun a ha => read_writeAll_beyond s.pal pal (hreg ▸ ha),
      fun a ha => read_writeAll_beyond s.ogrid g.px (hsize ▸ ha), ?_⟩
    simp only [endsWell, hle, decide_true]
  · have h24 : d = .d24 := by_contra fun hne => hx ((indexed_iff hd).2 hne)
    have hgt : ¬m.bpp.toNat ≤ 8 := fun hle => hx (decide_eq_true hle)
    subst h24
    have hdec := decode_trueColour hi hf hm hd
    rw [decodePixels_d24 _ m [] pal, hg, trueColourDecode_eq] at hdec
    refine ⟨_, hdec, rfl, gridOf_writeAll s.ogrid hsize, fun hle => absurd hle hgt, fun _ => ⟨rfl, rfl⟩, fun a _ => rfl,
      fun a ha => read_writeAll_beyond s.ogrid g.px (hsize ▸ ha), ?_⟩
    simp only [endsWell, hgt, decide_false]

end Sys2Proof.Machine

/-! ## Host actions -/

namespace Sys2Proof.Machine

variable {s t : State}

/-! ### A step is the host's next action (R30, R78) -/

theorem step_nil (hp : s.pending = []) : step s = .next s := by rw [step, hp]

/-- A write to `CMD` while `BUSY` is 1 is ignored (R43). -/
theorem step_busy {w : Word} {rest : List HostAction} (hp : s.pending = .issue w :: rest)
    (hb : s.status.busy = true) : step s = .next { s with pending := rest } := by
  rw [step_cons hp]
  exact if_pos hb

/-- Settles O6: the cases of `step` and of `issueWord`. -/
theorem stepRunsTheDecodedCommand : Obligations.StepRunsTheDecodedCommand := by
  unfold Obligations.StepRunsTheDecodedCommand
  exact ⟨fun s w i rest hp hb hd => step_legal hp hb hd,
    fun s nbits w i hd => step_legal (s := s.withFetchWord nbits w) rfl rfl hd,
    fun s w rest hp hb => step_busy hp hb, fun s hp => step_nil hp⟩

theorem step_writeReg {n : BitVec 5} {v : Word} {rest : List HostAction} (hp : s.pending = .writeReg n v :: rest)
    (hn : n ≠ 0) : step s = .next { s with pending := rest } := by
  rw [step_cons hp]
  exact if_neg hn

/-- Settles O13: `writeRegister` issues a word for register 0 only. -/
theorem hostWritesNothingButCmd : Obligations.HostWritesNothingButCmd := by
  unfold Obligations.HostWritesNothingButCmd
  exact fun s n v rest hp hn => step_writeReg hp hn

/-- Settles O14: the reset state's `STATUS`, `ERR` and `ERR_INFO`. -/
theorem resetClearsStatus : Obligations.ResetClearsStatus := by
  unfold Obligations.ResetClearsStatus
  intro s rest hp
  have hstatus : statusWord Status.zero = 0 := by decide
  have herr : errWord { code := 0, stage := 0 } = 0 := by decide
  exact ⟨resetCore { s with pending := rest }, step_cons hp, hstatus, herr, rfl, rfl, rfl⟩

/-- Settles O8: `loadFile` writes the whole file from address 0 and clears the chain of flags. -/
theorem loadbufStoresTheFile : Obligations.LoadbufStoresTheFile := by
  unfold Obligations.LoadbufStoresTheFile
  intro s bytes rest hp hb hf
  refine ⟨renewIbuf (loadFile bytes { s with pending := rest }), ?_, fun a => read_writeAll_zero s.ibuf bytes a, ?_⟩
  · rw [step_cons hp]
    exact perform_loadbuf (s := { s with pending := rest }) hb hf
  · simp only [renewIbuf, loadFile, clearMeta_eq]

/-! ### Host reads (R48) -/

theorem readLocation_counts {α : Type} (valid inUse : Bool) (m : Memory α) (a : Nat) (wrap : α → HostData) (rest : α)
    (free : Nat → α) (s : State) : ∃ d n, s.freeCount ≤ n ∧
      readLocation valid inUse m a wrap rest free s = { s with hostData := some d, freeCount := n } := by
  rw [readLocation]
  split
  · exact ⟨_, s.freeCount, Nat.le.refl, rfl⟩
  · exact ⟨_, s.freeCount + 1, Nat.le_succ _, rfl⟩

theorem readRegister_counts (n : BitVec 5) (s : State) : ∃ d k, s.freeCount ≤ k ∧
    readRegister n s = { s with hostData := some d, freeCount := k } := by
  rw [readRegister]
  split
  · exact ⟨_, s.freeCount, Nat.le.refl, rfl⟩
  · exact ⟨_, s.freeCount + 1, Nat.le_succ _, rfl⟩

/-- Every host read answers, changes what the host has read, and may take a free value; nothing else. -/
theorem perform_read {a : HostAction} (ha : isHostRead a) (s : State) : ∃ d n, s.freeCount ≤ n ∧
    perform a s = .next { s with hostData := some d, freeCount := n } := by
  have lift {u : State} (h : ∃ d n, s.freeCount ≤ n ∧ u = { s with hostData := some d, freeCount := n }) :
      ∃ d n, s.freeCount ≤ n ∧ (.next u : Result) = .next { s with hostData := some d, freeCount := n } := by
    obtain ⟨d, n, hn, rfl⟩ := h
    exact ⟨d, n, hn, rfl⟩
  rcases ha with ⟨n, rfl⟩ | ⟨k, rfl⟩ | ⟨k, rfl⟩ | ⟨g, x, y, rfl⟩ | ⟨k, rfl⟩
  · exact lift (readRegister_counts n s)
  · exact lift (readLocation_counts ..)
  · exact lift (readLocation_counts ..)
  · cases g with
    | original => exact lift (readLocation_counts ..)
    | transformed => exact lift (readLocation_counts ..)
    | resampled => exact lift (readLocation_counts ..)
  · exact lift (readLocation_counts ..)

/-- Settles O10: every host read is the read of a register or of a location. -/
theorem hostReadsHaveNoSideEffect : Obligations.HostReadsHaveNoSideEffect := by
  unfold Obligations.HostReadsHaveNoSideEffect
  intro s a rest hp ha
  rw [step_cons hp]
  exact perform_read ha { s with pending := rest }

/-! ### Registers as the host reads them (R21, R29, R31) -/

/-- A flag above every bit of a word is added to it. -/
theorem or_flagBit {x : Word} {k : Nat} (hx : x.toNat < 2 ^ k) (hk : k < 32) (b : Bool) :
    (x ||| flagBit b k).toNat = x.toNat + 2 ^ k * b.toNat := by
  cases b with
  | false => simp [flagBit]
  | true =>
    have hpow : 2 ^ k % 2 ^ 32 = 2 ^ k := Nat.mod_eq_of_lt (Nat.pow_lt_pow_right (by decide) hk)
    rw [flagBit, if_pos rfl, BitVec.toNat_or, BitVec.toNat_ofNat, hpow, Nat.or_comm]
    have := Nat.two_pow_add_eq_or_of_lt hx 1
    simp only [Nat.mul_one, Bool.toNat_true] at this ⊢
    omega

theorem flagBit_zero (b : Bool) : (flagBit b 0).toNat = b.toNat := by cases b <;> rfl

theorem statusWord_toNat (st : Status) : (statusWord st).toNat =
    st.busy.toNat + 2 * st.ibufValid.toNat + 4 * st.metaValid.toNat + 8 * st.palValid.toNat +
      16 * st.ogridValid.toNat + 32 * st.tgridValid.toNat + 64 * st.rgridValid.toNat + 128 * st.obufValid.toNat +
      256 * st.errSeen.toNat := by
  have h0 := Bool.toNat_le st.busy
  have h1 := Bool.toNat_le st.ibufValid
  have h2 := Bool.toNat_le st.metaValid
  have h3 := Bool.toNat_le st.palValid
  have h4 := Bool.toNat_le st.ogridValid
  have h5 := Bool.toNat_le st.tgridValid
  have h6 := Bool.toNat_le st.rgridValid
  have h7 := Bool.toNat_le st.obufValid
  rw [statusWord]
  have e0 := flagBit_zero st.busy
  have e1 := or_flagBit (x := flagBit st.busy 0) (k := 1) (by omega) (by decide) st.ibufValid
  have e2 := or_flagBit (k := 2) (by rw [e1]; omega) (by decide) st.metaValid
  have e3 := or_flagBit (k := 3) (by rw [e2]; omega) (by decide) st.palValid
  have e4 := or_flagBit (k := 4) (by rw [e3]; omega) (by decide) st.ogridValid
  have e5 := or_flagBit (k := 5) (by rw [e4]; omega) (by decide) st.tgridValid
  have e6 := or_flagBit (k := 6) (by rw [e5]; omega) (by decide) st.rgridValid
  have e7 := or_flagBit (k := 7) (by rw [e6]; omega) (by decide) st.obufValid
  have e8 := or_flagBit (k := 8) (by rw [e7]; omega) (by decide) st.errSeen
  omega

theorem errWord_toNat (e : ErrReg) : (errWord e).toNat = e.code.toNat + 256 * e.stage.toNat := by
  have hstage : ((0 : BitVec 20) ++ e.stage).toNat = e.stage.toNat := by
    rw [BitVec.toNat_append]
    simp
  rw [errWord, BitVec.toNat_append, hstage, ← Nat.shiftLeft_add_eq_or_of_lt e.code.isLt, Nat.shiftLeft_eq]
  omega

theorem bppWord_toNat (m : Metadata) : (bppWord m).toNat = m.bpp.toNat := by
  rw [bppWord, BitVec.toNat_setWidth, Nat.mod_eq_of_lt (Nat.lt_trans m.bpp.isLt (by decide))]

/-- The numbers from 22 on have no flag and read 0 (R21). -/
theorem register_reserved (k : Nat) (s : State) :
    registerValid (22 + k) s.status = true ∧ registerValue (22 + k) s = 0 := by
  rw [Nat.add_comm]
  refine ⟨?_, rfl⟩
  rw [registerValid, if_neg (by omega), if_neg (by omega), if_neg (by omega), if_neg (by omega), if_neg (by omega),
    if_neg (by omega), if_neg (by omega), if_neg (by omega)]

/-- Every line of the register table is what the model's register of that number is. -/
theorem register_of_table (s : State) : ∀ line ∈ registerTable s,
    registerValid line.1 s.status = line.2.1 ∧ registerValue line.1 s = line.2.2 := by
  rw [registerTable, List.forall_mem_append]
  constructor
  · simp only [List.forall_mem_cons]
    exact ⟨⟨rfl, rfl⟩, ⟨rfl, statusWord_toNat s.status⟩, ⟨rfl, errWord_toNat s.err⟩, ⟨rfl, rfl⟩, ⟨rfl, rfl⟩,
      ⟨rfl, rfl⟩, ⟨rfl, rfl⟩, ⟨rfl, rfl⟩, ⟨rfl, rfl⟩, ⟨rfl, rfl⟩, ⟨rfl, bppWord_toNat s.imeta⟩, ⟨rfl, rfl⟩, ⟨rfl, rfl⟩,
      ⟨rfl, flagBit_zero s.imeta.topdown⟩, ⟨rfl, rfl⟩, ⟨rfl, rfl⟩, ⟨rfl, rfl⟩, ⟨rfl, rfl⟩, ⟨rfl, rfl⟩, ⟨rfl, rfl⟩,
      ⟨rfl, rfl⟩, ⟨rfl, rfl⟩, nofun⟩
  · exact List.forall_mem_map.2 fun k _ => register_reserved k s

/-- A register whose flag is 1, or that has none, reads as its content while `BUSY` is 0. -/
theorem readRegister_valid {n : BitVec 5} (hb : s.status.busy = false) (hv : registerValid n.toNat s.status = true) :
    readRegister n s = answer (.number (registerValue n.toNat s)) s := if_pos (.inr ⟨hb, hv⟩)

/-- Settles O11: the line of the table is the register the host reads. -/
theorem registerReadsFollowTheTable : Obligations.RegisterReadsFollowTheTable := by
  unfold Obligations.RegisterReadsFollowTheTable
  intro s n v rest hp hb hmem
  obtain ⟨hv, rfl⟩ : registerValid n.toNat s.status = true ∧ registerValue n.toNat s = v :=
    register_of_table s _ hmem
  rw [step_cons hp]
  exact congrArg _ (readRegister_valid (s := { s with pending := rest }) hb hv)

/-! ### Locations as the host reads them (R34 to R39) -/

/-- A pixel inside a grid is read from its place in the row-major order (R36). -/
theorem readPixelOf_stored {g : GridName} {valid : Bool} {m : Memory RGB} {w h x y : Nat} {p : RGB} (hv : valid = true)
    (hb : s.status.busy = false) (hx : x < w) (hy : y < h) (hm : Memory.read m (y * w + x) = some p) (n : Nat) :
    readPixelOf g valid m w h n x y s = answer (.pixel p) s :=
  readLocation_stored hv (by simp [hx, hy]) hb hm ..

/-- Settles O12: each memory's read, inside the range in use, is `readLocation` of what is stored. -/
theorem locationReadsAnswerTheContents : Obligations.LocationReadsAnswerTheContents := by
  unfold Obligations.LocationReadsAnswerTheContents
  intro s a rest hp hb
  rw [step_cons hp]
  refine ⟨?_, ?_, ?_, ?_, ?_, ?_⟩
  · rintro k b rfl hv hk hm
    exact congrArg _ (readLocation_stored (s := { s with pending := rest }) hv (decide_eq_true hk) hb hm ..)
  · rintro k p rfl hv hk hm
    exact congrArg _ (readLocation_stored (s := { s with pending := rest }) hv (decide_eq_true hk) hb hm ..)
  · rintro x y p rfl hv hx hy hm
    exact congrArg _ (readPixelOf_stored (s := { s with pending := rest }) hv hb hx hy hm _)
  · rintro x y p rfl hv hx hy hm
    exact congrArg _ (readPixelOf_stored (s := { s with pending := rest }) hv hb hx hy hm _)
  · rintro x y p rfl hv hx hy hm
    exact congrArg _ (readPixelOf_stored (s := { s with pending := rest }) hv hb hx hy hm _)
  · rintro k b rfl hv hk hm
    exact congrArg _ (readLocation_stored (s := { s with pending := rest }) hv (decide_eq_true hk) hb hm ..)

/-! ### The same read again (R71) -/

/-- `s` with another host's side: the queue, what the host has read, and the count of free values. -/
def onHostSide (p : List HostAction) (d : Option HostData) (n : Nat) (s : State) : State :=
  { s with pending := p, hostData := d, freeCount := n }

section
variable {valid : Bool} (hb : s.status.busy = false) (hv : valid = true)
include hb hv

theorem readLocation_onHostSide {α : Type} (inUse : Bool) (m : Memory α) (a : Nat) (wrap : α → HostData) (rest : α)
    (free : Nat → α) : ∃ d, ∀ p h n,
      readLocation valid inUse m a wrap rest free (onHostSide p h n s) = answer d (onHostSide p h n s) :=
  ⟨_, fun p h n => readLocation_valid (s := onHostSide p h n s) hv hb inUse m a wrap rest free⟩

theorem readPixelOf_onHostSide (g : GridName) (m : Memory RGB) (width height gen x y : Nat) : ∃ d, ∀ p h n,
    readPixelOf g valid m width height gen x y (onHostSide p h n s) = answer d (onHostSide p h n s) :=
  readLocation_onHostSide hb hv ..

end

/-- A valid read answers what CORE holds, whatever the host's side is. -/
theorem validRead_answers {a : HostAction} (hb : s.status.busy = false) (hv : isValidRead a s = true) :
    ∃ d, ∀ p h n, perform a (onHostSide p h n s) = .next (answer d (onHostSide p h n s)) := by
  cases a with
  | readReg n =>
    obtain ⟨⟨k, b, v⟩, hmem, hk⟩ := List.any_eq_true.1 hv
    obtain ⟨rfl, rfl⟩ : k = n.toNat ∧ b = true := by simpa using hk
    exact ⟨.number (registerValue n.toNat s), fun p h m =>
      congrArg _ (readRegister_valid (s := onHostSide p h m s) hb (register_of_table s _ hmem).1)⟩
  | readIbuf k =>
    obtain ⟨d, hd⟩ := readLocation_onHostSide hb hv (decide (k < s.ibufLen)) s.ibuf k .byte
      (Config.restIbuf s.gens.ibuf k) Config.freeByte
    exact ⟨d, fun p h n => congrArg _ (hd p h n)⟩
  | readPal k =>
    obtain ⟨d, hd⟩ := readLocation_onHostSide hb hv (decide (k < s.palLen.toNat)) s.pal k .pixel
      (Config.restPal s.gens.pal k) Config.freePixel
    exact ⟨d, fun p h n => congrArg _ (hd p h n)⟩
  | readPixel g x y =>
    cases g with
    | original =>
      obtain ⟨d, hd⟩ := readPixelOf_onHostSide hb hv .original s.ogrid s.ogW s.ogH s.gens.ogrid x y
      exact ⟨d, fun p h n => congrArg _ (hd p h n)⟩
    | transformed =>
      obtain ⟨d, hd⟩ := readPixelOf_onHostSide hb hv .transformed s.tgrid s.tgW s.tgH s.gens.tgrid x y
      exact ⟨d, fun p h n => congrArg _ (hd p h n)⟩
    | resampled =>
      obtain ⟨d, hd⟩ := readPixelOf_onHostSide hb hv .resampled s.rgrid s.rgW s.rgH s.gens.rgrid x y
      exact ⟨d, fun p h n => congrArg _ (hd p h n)⟩
  | readObuf k =>
    obtain ⟨d, hd⟩ := readLocation_onHostSide hb hv (decide (k < s.obufLen)) s.obuf k .byte
      (Config.restObuf s.gens.obuf k) Config.freeByte
    exact ⟨d, fun p h n => congrArg _ (hd p h n)⟩
  | loadbuf bytes => cases hv
  | writeReg n v => cases hv
  | reset => cases hv

/-- A read, or a write to another register than `CMD`, changes the host's side only. -/
theorem step_harmless {b : HostAction} (hb : isHostRead b ∨ ∃ n v, b = .writeReg n v ∧ n ≠ 0) (p : List HostAction)
    (d : Option HostData) (n : Nat) (s : State) :
    ∃ d' n', step (onHostSide (b :: p) d n s) = .next (onHostSide p d' n' s) := by
  rcases hb with hr | ⟨k, v, rfl, hk⟩
  · obtain ⟨d', n', -, h⟩ := perform_read hr (onHostSide p d n s)
    exact ⟨some d', n', h⟩
  · exact ⟨d, n, step_writeReg rfl hk⟩

/-- Any number of them does. -/
theorem steps_harmless {between : List HostAction}
    (h : ∀ b ∈ between, isHostRead b ∨ ∃ n v, b = .writeReg n v ∧ n ≠ 0) (p : List HostAction) (k : Nat)
    (d : Option HostData) (n : Nat) (s : State) : ∃ d' n',
    steps (between.length + k) (onHostSide (between ++ p) d n s) = steps k (onHostSide p d' n' s) := by
  induction between generalizing d n with
  | nil => exact ⟨d, n, by rw [List.length_nil, Nat.zero_add, List.nil_append]⟩
  | cons b rest ih =>
    obtain ⟨d', n', hstep⟩ := step_harmless (h b List.mem_cons_self) (rest ++ p) d n s
    obtain ⟨d'', n'', hsteps⟩ := ih (fun c hc => h c (List.mem_cons_of_mem _ hc)) d' n'
    refine ⟨d'', n'', ?_⟩
    rw [List.length_cons, Nat.succ_add, List.cons_append, steps_succ_next hstep, hsteps]

/-- Settles O60: the first read leaves the host's side only different, so do the actions between, and the answer does
not depend on it. -/
theorem repeatedReadsAgree : Obligations.RepeatedReadsAgree := by
  unfold Obligations.RepeatedReadsAgree
  intro s a between rest hp hb hv hbetween
  obtain ⟨d, hread⟩ := validRead_answers hb hv
  have hfirst : step s = .next (onHostSide (between ++ a :: rest) (some d) s.freeCount s) :=
    (step_cons hp).trans (hread ..)
  obtain ⟨d', n', hsteps⟩ := steps_harmless hbetween (a :: rest) 1 (some d) s.freeCount s
  have hlast : step (onHostSide (a :: rest) d' n' s) = .next (onHostSide rest (some d) n' s) :=
    (step_cons rfl).trans (hread rest d' n')
  exact ⟨_, _, hfirst, hsteps.trans (steps_succ_next hlast), rfl, rfl, rfl⟩

end Sys2Proof.Machine

/-! ## Legal and illegal words, missing inputs, and `PALRD`

A word is legal when one of the three formats admits it; a command whose input is missing does not begin its stage. -/

namespace Sys2Proof.Machine

variable {s t : State}

/-- Settles O1: field by field, the decoder reads what the encoder has put together. -/
theorem decodeOfEncodeIsTheInstruction : Obligations.DecodeOfEncodeIsTheInstruction := by
  unfold Obligations.DecodeOfEncodeIsTheInstruction
  exact fun _ => encode_map_decode

/-- Settles O3: the decoder is run on each word. -/
theorem wordsOfTheEncodingDecode : Obligations.WordsOfTheEncodingDecode := by
  unfold Obligations.WordsOfTheEncodingDecode
  decide

/-- Settles O56: in a state of the invariant every input can be read. -/
theorem everyInstructionAnswersAState : Obligations.EveryInstructionAnswersAState := by
  unfold Obligations.EveryInstructionAnswersAState
  exact fun i _ _ h => exec_answers i h

/-! ### A word is its fields put together (R90 to R93) -/

section
variable {w : Word}

theorem encodeN_opcField (h : zeroN w = 0) : encodeN (opcField w) = w := by
  rw [encodeN, ← h]
  exact (BitVec.extractLsb'_append_extractLsb'_eq_extractLsb' rfl).trans BitVec.extractLsb'_eq_self

/-- The lower half of a word is the immediate it carries (R100). -/
theorem append_immBits_immField (w : Word) : w.extractLsb' 16 16 ++ immBits (immField w) = w := by
  rw [immBits, immField, BitVec.ofInt_toInt]
  exact (BitVec.extractLsb'_append_extractLsb'_eq_extractLsb' rfl).trans BitVec.extractLsb'_eq_self

theorem ofBool_getLsbD (w : Word) (k : Nat) : BitVec.ofBool (w.getLsbD k) = w.extractLsb' k 1 := by
  apply BitVec.eq_of_getLsbD_eq
  intro i hi
  obtain rfl : i = 0 := by omega
  simp

theorem encodeX_fields (ho : opcField w = 0x04#8) (hz : zeroX w = 0) :
    encodeX (immField w) (w.getLsbD 18) (w.getLsbD 17) (w.getLsbD 16) = w := by
  have htop : formatXTop (w.getLsbD 18) (w.getLsbD 17) (w.getLsbD 16) = w.extractLsb' 16 16 := by
    rw [formatXTop, ← ho, ← hz, opcField, zeroX, ofBool_getLsbD, ofBool_getLsbD, ofBool_getLsbD,
      BitVec.extractLsb'_append_extractLsb'_eq_extractLsb' (show 24 = 19 + 5 from rfl),
      BitVec.extractLsb'_append_extractLsb'_eq_extractLsb' (show 19 = 18 + 1 from rfl),
      BitVec.extractLsb'_append_extractLsb'_eq_extractLsb' (show 18 = 17 + 1 from rfl),
      BitVec.extractLsb'_append_extractLsb'_eq_extractLsb' (show 17 = 16 + 1 from rfl)]
  exact (congrArg (· ++ immBits (immField w)) htop).trans (append_immBits_immField w)

theorem encodeS_fields (ho : opcField w = 0x05#8) (hz : zeroS w = 0) : encodeS (immField w) = w := by
  have htop : 0x05#8 ++ (0 : BitVec 8) = w.extractLsb' 16 16 := by
    rw [← ho, ← hz]
    exact BitVec.extractLsb'_append_extractLsb'_eq_extractLsb' rfl
  exact (congrArg (· ++ immBits (immField w)) htop).trans (append_immBits_immField w)

/-! ### Which words are legal (R95, R96) -/

/-- The opcodes of format N and their commands (R95). -/
def formatNCommands : List (BitVec 8 × Instr) :=
  [(0x01#8, .hparse), (0x02#8, .palrd), (0x03#8, .pxdec), (0x06#8, .ppmenc), (0x07#8, .decode)]

theorem ite_eq_ok_iff {P : Prop} [Decidable P] {i j : Instr} {r : Reject} :
    (if P then .ok i else .error r) = (.ok j : Except Reject Instr) ↔ P ∧ j = i := by
  split <;> simp [*, eq_comm]

theorem decodeN_ok_iff {i j : Instr} : decodeN w i = .ok j ↔ zeroN w = 0 ∧ j = i := ite_eq_ok_iff

theorem decodeX_ok_iff {j : Instr} : decodeX w = .ok j ↔
    zeroX w = 0 ∧ j = .xform (immField w) (w.getLsbD 18) (w.getLsbD 17) (w.getLsbD 16) := ite_eq_ok_iff

theorem decodeS_ok_iff {j : Instr} : decodeS w = .ok j ↔ zeroS w = 0 ∧ j = .resize (immField w) := ite_eq_ok_iff

/-- The words that decode, and the command of each: one of the three formats, its reserved field 0. -/
theorem decode_ok_iff {i : Instr} : decode w = .ok i ↔
    ((opcField w, i) ∈ formatNCommands ∧ zeroN w = 0) ∨
    (opcField w = 0x04#8 ∧ zeroX w = 0 ∧
      i = .xform (immField w) (w.getLsbD 18) (w.getLsbD 17) (w.getLsbD 16)) ∨
    (opcField w = 0x05#8 ∧ zeroS w = 0 ∧ i = .resize (immField w)) := by
  simp only [decode, formatNCommands, List.mem_cons, Prod.mk.injEq, List.not_mem_nil, or_false]
  split
  · next h => simp [h, decodeN_ok_iff, and_comm]
  · split
    · next h => simp [h, decodeN_ok_iff, and_comm]
    · split
      · next h => simp [h, decodeN_ok_iff, and_comm]
      · split
        · next h => simp [h, decodeX_ok_iff]
        · split
          · next h => simp [h, decodeS_ok_iff]
          · split
            · next h => simp [h, decodeN_ok_iff, and_comm]
            · split
              · next h => simp [h, decodeN_ok_iff, and_comm]
              · simp [*]

theorem encode_of_mem_formatNCommands {opc : BitVec 8} {i : Instr} (h : (opc, i) ∈ formatNCommands) :
    i.expand = [i] ∧ encode i = [encodeN opc] := by
  simp only [formatNCommands, List.mem_cons, Prod.mk.injEq, List.not_mem_nil, or_false] at h
  rcases h with ⟨rfl, rfl⟩ | ⟨rfl, rfl⟩ | ⟨rfl, rfl⟩ | ⟨rfl, rfl⟩ | ⟨rfl, rfl⟩ <;> exact ⟨rfl, rfl⟩

/-- A legal word is the one word of its command. -/
theorem encode_of_decode {i : Instr} (h : decode w = .ok i) : i.expand = [i] ∧ encode i = [w] := by
  rcases decode_ok_iff.1 h with ⟨hmem, hz⟩ | ⟨ho, hz, rfl⟩ | ⟨ho, hz, rfl⟩
  · obtain ⟨hexp, henc⟩ := encode_of_mem_formatNCommands hmem
    exact ⟨hexp, by rw [henc, encodeN_opcField hz]⟩
  · exact ⟨rfl, congrArg (fun v => [v]) (encodeX_fields ho hz)⟩
  · exact ⟨rfl, congrArg (fun v => [v]) (encodeS_fields ho hz)⟩

end

/-- Settles O2: each format's fields cover the word, and those not read are 0. -/
theorem encodeOfDecodeIsTheWord : Obligations.EncodeOfDecodeIsTheWord := by
  unfold Obligations.EncodeOfDecodeIsTheWord
  exact fun w i h => ⟨decode_wf h, encode_of_decode h⟩

/-! ### The fields as numbers -/

theorem opcField_toNat (w : Word) : (opcField w).toNat = w.toNat / 2 ^ 24 := by
  rw [opcField, BitVec.extractLsb'_toNat, Nat.shiftRight_eq_div_pow, Nat.mod_eq_of_lt]
  have := w.isLt
  omega

theorem zeroN_eq_zero_iff (w : Word) : zeroN w = 0 ↔ w.toNat % 2 ^ 24 = 0 := by
  rw [zeroN, ← BitVec.toNat_inj, BitVec.extractLsb'_toNat]
  rfl

theorem zeroX_eq_zero_iff (w : Word) : zeroX w = 0 ↔ w.toNat / 2 ^ 19 % 2 ^ 5 = 0 := by
  rw [zeroX, ← BitVec.toNat_inj, BitVec.extractLsb'_toNat, Nat.shiftRight_eq_div_pow]
  rfl

theorem zeroS_eq_zero_iff (w : Word) : zeroS w = 0 ↔ w.toNat / 2 ^ 16 % 2 ^ 8 = 0 := by
  rw [zeroS, ← BitVec.toNat_inj, BitVec.extractLsb'_toNat, Nat.shiftRight_eq_div_pow]
  rfl

theorem opcField_eq_iff {n : Nat} (hn : n < 2 ^ 8) (w : Word) :
    opcField w = BitVec.ofNat 8 n ↔ w.toNat / 2 ^ 24 = n := by
  rw [← BitVec.toNat_inj, opcField_toNat, BitVec.toNat_ofNat, Nat.mod_eq_of_lt hn]

theorem mem_formatNCommands_iff (w : Word) :
    (∃ i, (opcField w, i) ∈ formatNCommands) ↔ w.toNat / 2 ^ 24 ∈ [1, 2, 3, 6, 7] := by
  simp only [formatNCommands, List.mem_cons, Prod.mk.injEq, List.not_mem_nil, or_false, exists_or, exists_and_left,
    exists_eq, and_true]
  rw [opcField_eq_iff (n := 1) (by decide), opcField_eq_iff (n := 2) (by decide), opcField_eq_iff (n := 3) (by decide),
    opcField_eq_iff (n := 6) (by decide), opcField_eq_iff (n := 7) (by decide)]

/-- R95, R96: the legal words by the numbers in their fields. -/
theorem decode_legal_iff (w : Word) : (∃ i, decode w = .ok i) ↔
    (w.toNat / 2 ^ 24 ∈ [1, 2, 3, 6, 7] ∧ w.toNat % 2 ^ 24 = 0) ∨
    (w.toNat / 2 ^ 24 = 4 ∧ w.toNat / 2 ^ 19 % 2 ^ 5 = 0) ∨ (w.toNat / 2 ^ 24 = 5 ∧ w.toNat / 2 ^ 16 % 2 ^ 8 = 0) := by
  simp only [decode_ok_iff, exists_or, exists_and_right, exists_and_left, exists_eq, and_true,
    mem_formatNCommands_iff, zeroN_eq_zero_iff, zeroX_eq_zero_iff, zeroS_eq_zero_iff,
    opcField_eq_iff (show 4 < 2 ^ 8 by decide), opcField_eq_iff (show 5 < 2 ^ 8 by decide)]

theorem illegalCommand_eq (w : Word) (s : State) : illegalCommand w s =
    { s with err := ⟨8, 0⟩, errInfo := w, status := { s.status with errSeen := true, busy := false } } := by
  rw [illegalCommand, takeError_eq_endsInError, endsInError, BitVec.ofNat_toNat, BitVec.setWidth_eq]
  rfl

/-- Settles O4: the words of R96 are those no format admits, and such a word is `illegalCommand`. -/
theorem illegalWordsEndAtOnce : Obligations.IllegalWordsEndAtOnce := by
  unfold Obligations.IllegalWordsEndAtOnce
  intro w
  have hlegal := decode_legal_iff w
  simp only [List.mem_cons, List.not_mem_nil, or_false] at hlegal ⊢
  constructor
  · intro hill s rest hp hb
    cases hd : decode w with
    | ok i =>
      have := hlegal.1 ⟨i, hd⟩
      omega
    | error r => rw [step_illegal hp hb hd, illegalCommand_eq, ← hb]
  · intro hill
    exact hlegal.2 (by omega)

/-! ### The first input flag that is 0 (R99, R269) -/

/-- The bit number of the first flag of a list that is 0. -/
def firstMissing (flags : List (Nat × Bool)) : Option Nat := (flags.find? fun q => !q.2).map Prod.fst

theorem firstMissing_append {before after : List (Nat × Bool)} {bit : Nat} (h : ∀ q ∈ before, q.2 = true) :
    firstMissing (before ++ (bit, false) :: after) = some bit := by
  have hnone : before.find? (fun q => !q.2) = none := List.find?_eq_none.2 fun q hq => by simp [h q hq]
  simp [firstMissing, List.find?_append, hnone]

/-- The flag of PAL that `PXDEC` looks at (R99). -/
theorem palette_flag (m : Metadata) (v : Bool) : (indexed m && !v) = !(decide (8 < m.bpp.toNat) || v) := by
  simp only [indexed, Bool.not_or, ← decide_not, Nat.not_lt]

theorem missingHparse_eq (st : Status) : missingHparse st = firstMissing [(1, st.ibufValid)] := by
  rw [missingHparse]
  cases st.ibufValid <;> rfl

theorem missingPalrd_eq (st : Status) :
    missingPalrd st = firstMissing [(1, st.ibufValid), (2, st.metaValid)] := by
  rw [missingPalrd]
  cases st.ibufValid <;> cases st.metaValid <;> rfl

theorem missingPxdec_eq (st : Status) (m : Metadata) : missingPxdec st m =
    firstMissing [(1, st.ibufValid), (2, st.metaValid), (3, decide (8 < m.bpp.toNat) || st.palValid)] := by
  rw [missingPxdec, palette_flag]
  cases st.ibufValid <;> cases st.metaValid <;> cases decide (8 < m.bpp.toNat) || st.palValid <;> rfl

theorem missingXform_eq (st : Status) : missingXform st = firstMissing [(4, st.ogridValid)] := by
  rw [missingXform]
  cases st.ogridValid <;> rfl

theorem missingResize_eq (st : Status) : missingResize st = firstMissing [(5, st.tgridValid)] := by
  rw [missingResize]
  cases st.tgridValid <;> rfl

theorem missingPpmenc_eq (st : Status) : missingPpmenc st = firstMissing [(6, st.rgridValid)] := by
  rw [missingPpmenc]
  cases st.rgridValid <;> rfl

/-- A command whose input flag is 0 ends in `InputNotValid` (R98 step 2). -/
theorem exec_of_missing {i : Instr} {bit : Nat} (h : firstMissing (neededFlags i s) = some bit) :
    exec i s = .next (takeError ⟨.inputNotValid, bit⟩ 0 s) := by
  have pxdec (h : firstMissing (neededFlags .pxdec s) = some bit) :
      pxdecCommand s = .next (takeError ⟨.inputNotValid, bit⟩ 0 s) :=
    frame_of_missing ((missingPxdec_eq ..).trans h) ..
  cases i with
  | hparse => exact frame_of_missing ((missingHparse_eq _).trans h) ..
  | palrd => exact frame_of_missing ((missingPalrd_eq _).trans h) ..
  | pxdec => exact pxdec h
  | pxdec24 => exact pxdec h
  | pxdec8 => exact pxdec h
  | pxdec4 => exact pxdec h
  | pxdec1 => exact pxdec h
  | xform b er eg eb => exact frame_of_missing ((missingXform_eq _).trans h) ..
  | xformId => exact frame_of_missing ((missingXform_eq _).trans h) ..
  | resize p => exact frame_of_missing ((missingResize_eq _).trans h) ..
  | ppmenc => exact frame_of_missing ((missingPpmenc_eq _).trans h) ..
  | decode =>
    have hm := (missingHparse_eq s.status).trans h
    exact congrArg (andThen · _) (frame_of_missing hm ..)
  | render b er eg eb p => cases h

/-- Settles O15: the flags before the missing one are 1, so it is the first. -/
theorem missingInputChangesNothing : Obligations.MissingInputChangesNothing := by
  unfold Obligations.MissingInputChangesNothing
  intro i s bit before after hflags hbefore hb
  rw [exec_of_missing (hflags ▸ firstMissing_append hbefore), takeError_eq_endsInError, endsInError, ← hb]
  rfl

/-! ### PALRD on a good colour table (R151, R153) -/

/-- A depth that has a palette (R152, R170). -/
theorem depthOf_indexed {m : Metadata} (h : m.bpp.toNat ∈ [1, 4, 8]) :
    indexed m = true ∧ ∃ d, depthOf m.bpp = some d := by
  have hb : m.bpp = BitVec.ofNat 16 m.bpp.toNat := by simp
  simp only [List.mem_cons, List.not_mem_nil, or_false] at h
  refine ⟨decide_eq_true (by omega), ?_⟩
  rw [hb]
  rcases h with h | h | h <;> rw [h]
  · exact ⟨.d1, rfl⟩
  · exact ⟨.d4, rfl⟩
  · exact ⟨.d8, rfl⟩

/-- The colour table as a list: each entry's channels swapped from B, G, R (R154). -/
def colourTable (m : Metadata) (buf : List Byte) : List RGB :=
  (List.range m.palcount.toNat).map fun i => bgrAt buf (paletteBase m + 4 * i)

theorem readPalette_inside {cap : Capacity} {m : Metadata} {buf : List Byte}
    (hlen : paletteBase m + 4 * m.palcount.toNat ≤ buf.length) (hcap : fits cap m.palcount.toNat = true) :
    readPalette cap m buf = .ok (colourTable m buf) := by
  simp [readPalette, colourTable, hcap, Nat.not_lt.2 hlen]

/-- Settles O23: both tests pass, and the colour table is written from address 0. -/
theorem palrdStoresTheColourTable : Obligations.PalrdStoresTheColourTable := by
  unfold Obligations.PalrdStoresTheColourTable
  intro s buf hi hm hbpp hf hlen hcap
  obtain ⟨hx, d, hd⟩ := depthOf_indexed hbpp
  have hcount : (colourTable s.imeta buf).length = s.imeta.palcount.toNat := by simp [colourTable]
  have hexec := palrd_eq hi hm hd hx hf
  rw [readPalette_inside hlen hcap, palrdEnd_ok] at hexec
  refine ⟨_, hexec, fun i hlt => ?_, fun i hle => read_writeAll_beyond s.pal _ (hcount ▸ hle), ?_⟩
  · refine (read_writeAll_zero s.pal _ i).trans ?_
    rw [if_pos (hcount ▸ hlt)]
    simp [colourTable, hlt, bgrAt, paletteBase]
  · simp only [endsWell, hcount, BitVec.ofNat_toNat, BitVec.setWidth_eq]

end Sys2Proof.Machine

/-! ## Numerals, the pixmap, and what rendering ends with -/

namespace Sys2Proof.Machine

variable {s t : State}

/-! ### Decimal numerals (R116) -/

theorem digit_toNat {n : Nat} (h : n < 10) : (digit n).toNat = 0x30 + n := by
  rw [digit, BitVec.toNat_ofNat, Nat.mod_eq_of_lt (by omega)]

theorem decimal_eq_digits (fuel : Nat) : ∀ n, 0 < n → n < fuel →
    decimal fuel n = ((Nat.digits 10 n).reverse).map digit := by
  induction fuel with
  | zero => intro n _ h; omega
  | succ f ih =>
    intro n hpos hlt
    rw [decimal]
    split
    · next h => rw [Nat.digits_of_lt 10 n (by omega) h]; rfl
    · rw [ih (n / 10) (by omega) (by omega), Nat.digits_def' (by decide) hpos, List.reverse_cons, List.map_append]
      rfl

/-- The numeral of a positive number is made of its digits, the most significant first. -/
theorem dec_eq_digits {n : Nat} (h : 0 < n) : dec n = ((Nat.digits 10 n).reverse).map digit :=
  decimal_eq_digits (n + 1) n h (Nat.lt_succ_self n)

theorem dec_length {n : Nat} (h : 0 < n) : (dec n).length = Nat.log 10 n + 1 := by
  rw [dec_eq_digits h, List.length_map, List.length_reverse, Nat.length_digits 10 n (by decide) (by omega)]

/-- The value of a decimal numeral, the most significant digit first. -/
def numeralValue (acc : Nat) (l : List Nat) : Nat := l.foldl (fun acc d => acc * 10 + d) acc

theorem numeralValue_digits (n : Nat) : numeralValue 0 (Nat.digits 10 n).reverse = n := by
  have hstep : (fun d acc => acc * 10 + d) = fun d acc : Nat => d + 10 * acc := by
    funext d acc
    omega
  rw [numeralValue, List.foldl_reverse, hstep]
  exact (Nat.ofDigits_eq_foldr 10 _).symm.trans (Nat.ofDigits_digits 10 n)

/-- Every numeral is a list of digits of the number's value (R116). -/
theorem dec_spec (n : Nat) : ∃ l : List Nat,
    dec n = l.map digit ∧ l ≠ [] ∧ (∀ d ∈ l, d < 10) ∧ numeralValue 0 l = n := by
  rcases Nat.eq_zero_or_pos n with rfl | hpos
  · exact ⟨[0], rfl, by simp, by simp, rfl⟩
  · exact ⟨(Nat.digits 10 n).reverse, dec_eq_digits hpos,
      by simpa using (Nat.digits_ne_nil_iff_ne_zero (b := 10)).2 (Nat.ne_of_gt hpos),
      fun d hd => Nat.digits_lt_base (by decide) (List.mem_reverse.1 hd), numeralValue_digits n⟩

/-- Reading the bytes of a numeral as digits. -/
theorem foldl_map_digit {l : List Nat} (hl : ∀ d ∈ l, d < 10) (acc : Nat) :
    (l.map digit).foldl (fun acc b => acc * 10 + (b.toNat - 0x30)) acc = numeralValue acc l := by
  rw [List.foldl_map]
  exact List.foldl_ext _ _ acc fun a d hd => by rw [digit_toNat (hl d hd), Nat.add_sub_cancel_left]

theorem dec_head {n : Nat} (hn : 1 ≤ n) : (dec n).head? ≠ some 0x30#8 := by
  have hne : Nat.digits 10 n ≠ [] := Nat.digits_ne_nil_iff_ne_zero.2 (by omega)
  have hlast := Nat.getLast_digit_ne_zero 10 (m := n) (by omega)
  have hlt : (Nat.digits 10 n).getLast hne < 10 := Nat.digits_lt_base (by decide) (List.getLast_mem hne)
  rw [dec_eq_digits hn, List.head?_map, List.head?_reverse, List.getLast?_eq_some_getLast hne]
  intro hzero
  have := congrArg BitVec.toNat (Option.some.inj hzero)
  rw [digit_toNat hlt] at this
  exact hlast (Nat.add_left_cancel this)

/-- Settles O47: the numeral is `Nat.digits` in base 10, reversed. -/
theorem decimalNumerals : Obligations.DecimalNumerals := by
  unfold Obligations.DecimalNumerals
  intro n hn
  obtain ⟨l, hl, -, hlt, hval⟩ := dec_spec n
  refine ⟨fun b hb => ?_, dec_head hn, ?_⟩
  · obtain ⟨d, hd, rfl⟩ := List.mem_map.1 (hl ▸ hb)
    have := hlt d hd
    rw [digit_toNat this]
    omega
  · rw [hl, foldl_map_digit hlt, hval]

/-! ### The pixmap (R115, R118, R243) -/

theorem ppmHeader_length {w h : Nat} (hw : 0 < w) (hh : 0 < h) :
    (ppmHeader w h).length = 9 + (Nat.log 10 w + 1) + (Nat.log 10 h + 1) := by
  simp only [ppmHeader, List.length_append, List.length_cons, List.length_nil, dec_length hw, dec_length hh]
  omega

/-- Settles O48: nine bytes of the header besides the two numerals, and three for each pixel. -/
theorem outputLength : Obligations.OutputLength := by
  unfold Obligations.OutputLength
  intro g hw hh hpx
  rw [ppm_length hpx, ppmLength, ppmHeader_length hw hh]

/-- Channel `j` of pixel `k` stands at byte `3 * k + j` of the body (R66). -/
theorem ppmBody_getElem? {px : List RGB} {k j : Nat} {p : RGB} (hp : px[k]? = some p) (hj : j < 3) :
    (ppmBody px)[3 * k + j]? = [p.r, p.g, p.b][j]? := by
  rw [ppmBody, List.flatMap, Nat.mul_comm, flatten_getElem? (n := 3) (by simp) k j hj, List.getElem?_map, hp]
  rfl

/-- The same of the whole pixmap, behind its header. -/
theorem ppm_getElem?_pixel {g : Grid} {k j : Nat} {p : RGB} (hp : g.px[k]? = some p) (hj : j < 3) :
    (ppm g)[(ppmHeader g.w g.h).length + 3 * k + j]? = [p.r, p.g, p.b][j]? := by
  rw [ppm, List.getElem?_append_right (by omega), Nat.add_assoc, Nat.add_sub_cancel_left, ppmBody_getElem? hp hj]

theorem ppm_getElem?_header {g : Grid} {a : Nat} (ha : a < (ppmHeader g.w g.h).length) :
    (ppm g)[a]? = (ppmHeader g.w g.h)[a]? := List.getElem?_append_left ha

theorem encodePpm_of_fits {cap : Capacity} {g : Grid} (h : fits cap (ppmLength g.w g.h) = true) :
    encodePpm cap g = .ok (ppm g) := by
  simp [encodePpm, h]

theorem encodePpm_of_not_fits {cap : Capacity} {g : Grid} (h : fits cap (ppmLength g.w g.h) = false) :
    encodePpm cap g = .error ⟨.capacityExceeded, 4⟩ := by
  simp [encodePpm, h]

theorem ppmHeader_eq (w h : Nat) : ppmHeader w h =
    [0x50#8, 0x36#8, 0x0A#8] ++ dec w ++ [0x20#8] ++ dec h ++ [0x0A#8, 0x32#8, 0x35#8, 0x35#8, 0x0A#8] := by
  simp [ppmHeader]

/-- What is stored from address 0 is read from its place. -/
theorem read_stored {α : Type} {l : List α} {a : Nat} {v : α} (m : Memory α) (h : l[a]? = some v) :
    Memory.read (Memory.writeAll m 0 l) a = some v := by
  rw [read_writeAll_zero, if_pos (List.getElem?_eq_some_iff.1 h).1, h]

/-- Settles O49: the pixmap is written from address 0, and each pixel of RGRID has its place in it. -/
theorem ppmencWritesThePixmap : Obligations.PpmencWritesThePixmap := by
  unfold Obligations.PpmencWritesThePixmap
  intro s g hr hg
  obtain ⟨hw, hh, hpx, hslice⟩ := gridOf_ok hg
  obtain ⟨-, hread⟩ := slice_eq_ok_iff.1 hslice
  have hlen : (ppm g).length = ppmLength g.w g.h := ppm_length (gridOf_size hg)
  have hexec := ppmenc_eq hr hg
  rw [← ppmHeader_eq, ← hw, ← hh]
  refine ⟨fun hfits => ?_, fun hfits => ?_⟩
  · rw [encodePpm_of_fits hfits, ppmencEnd_ok] at hexec
    refine ⟨_, hexec, fun a ha => ?_, fun k hk => ?_, fun a ha => read_writeAll_beyond s.obuf _ (hlen ▸ ha), ?_⟩
    · rw [← ppm_getElem?_header ha]
      exact (read_writeAll_zero s.obuf _ a).trans (if_pos (by rw [hlen, ppmLength]; omega))
    · have hk' : k < g.px.length := by rw [hpx, ← hw, ← hh]; exact hk
      have hp := List.getElem?_eq_getElem hk'
      exact ⟨g.px[k], (hread k (hpx ▸ hk')).trans hp, read_stored s.obuf (ppm_getElem?_pixel (j := 0) hp (by decide)),
        read_stored s.obuf (ppm_getElem?_pixel (j := 1) hp (by decide)),
        read_stored s.obuf (ppm_getElem?_pixel (j := 2) hp (by decide))⟩
    · simp only [endsWell, hlen, ppmLength, hw, hh]
  · rw [encodePpm_of_not_fits hfits, ppmencEnd_error] at hexec
    exact hexec

/-! ### `RENDER` where everything fits (R122) -/

theorem render_end_eq (g r : Grid) (l : List Byte) (s : State) :
    ppmencEnd (.ok l) (resizeEnd (.ok r) (xformEnd g s)) = endsWell
      { s.status with tgridValid := true, rgridValid := true, obufValid := true }
      { s with
        tgrid := Memory.writeAll s.tgrid 0 g.px, tgW := g.w, tgH := g.h
        rgrid := Memory.writeAll s.rgrid 0 r.px, rgW := r.w, rgH := r.h
        obuf := Memory.writeAll s.obuf 0 l, obufLen := l.length } := by
  simp only [xformEnd_eq, resizeEnd_ok, ppmencEnd_ok, endsWell]

/-- Settles O50: `RENDER` is the completion of its three parts, whose results are read back. -/
theorem renderCompletes : Obligations.RenderCompletes := by
  unfold Obligations.RenderCompletes
  intro b p er eg eb s g r l ho hg hr hl
  obtain ⟨hw, hh, hpx, -⟩ := gridOf_ok hg
  have htsize := transform_size hg s.cfg.numerics b er eg eb
  have hrsize := (resize_shape hr).2.2
  have hexec : exec (.render b er eg eb p) s = _ := render_goodResize ho hg hr
  rw [hl, render_end_eq] at hexec
  refine ⟨_, hexec, gridOf_writeAll s.tgrid htsize, gridOf_writeAll s.rgrid hrsize, slice_writeAll s.obuf l rfl,
    fun a ha => read_writeAll_beyond s.tgrid _ ?_, fun a ha => read_writeAll_beyond s.rgrid _ (hrsize ▸ ha),
    fun a ha => read_writeAll_beyond s.obuf l ha, ?_⟩
  · rwa [transform_px_length, hpx]
  · simp only [endsWell, transform_w, transform_h, hw, hh]

/-! ### What rendering ends with (R266) -/

/-- The error codes of rendering: none, `CapacityExceeded`, `InputNotValid`. -/
def RenderingCode (t : State) : Prop := t.err.code ∈ [0, 6, 7]

theorem xform_code {b : Int} {er eg eb : Bool} (hx : xformCommand b er eg eb s = .next t) : RenderingCode t := by
  rcases xform_cases hx with ⟨bit, -, rfl⟩ | ⟨-, g, -, rfl⟩
  · simp [RenderingCode, errorCode]
  · simp [RenderingCode]

theorem resize_code {p : Int} (hx : resizeCommand p s = .next t) : RenderingCode t := by
  rcases resize_cases hx with ⟨bit, -, rfl⟩ | ⟨-, ⟨-, rfl⟩ | ⟨-, g, -, ⟨r, -, rfl⟩ | ⟨e, he, rfl⟩⟩⟩
  · simp [RenderingCode, errorCode]
  · simp [RenderingCode]
  · simp [RenderingCode]
  · simp [RenderingCode, errorCode, resize_error he]

theorem ppmenc_code (hx : ppmencCommand s = .next t) : RenderingCode t := by
  rcases ppmenc_cases hx with ⟨bit, -, rfl⟩ | ⟨-, g, -, ⟨l, -, rfl⟩ | ⟨e, he, rfl⟩⟩
  · simp [RenderingCode, errorCode]
  · simp [RenderingCode]
  · simp [RenderingCode, errorCode, encodePpm_error he]

/-- The last stage of a rendering instruction is what reports. -/
theorem rendering_code {i : Instr} (hr : isRendering i = true) (hx : exec i s = .next t) : RenderingCode t := by
  cases i with
  | xform b er eg eb => exact xform_code hx
  | xformId => exact xform_code hx
  | resize p => exact resize_code hx
  | ppmenc => exact ppmenc_code hx
  | render b er eg eb p =>
    obtain ⟨u, -, hx⟩ := andThen_next_iff.1 hx
    obtain ⟨v, -, hx⟩ := andThen_next_iff.1 hx
    exact ppmenc_code hx
  | hparse => cases hr
  | palrd => cases hr
  | pxdec => cases hr
  | pxdec24 => cases hr
  | pxdec8 => cases hr
  | pxdec4 => cases hr
  | pxdec1 => cases hr
  | decode => cases hr

theorem xform_succeeds {b : Int} {er eg eb : Bool} (ho : s.status.ogridValid = true)
    (hx : xformCommand b er eg eb s = .next t) : t.err.code = 0 ∧ t.status.tgridValid = true := by
  rcases xform_cases hx with ⟨bit, hm, rfl⟩ | ⟨-, g, -, rfl⟩
  · rw [missingXform_none.2 ho] at hm
    cases hm
  · simp

/-- With an unbounded grid memory `RESIZE` has no error of its own (R228). -/
theorem resize_succeeds {p : Int} (ht : s.status.tgridValid = true) (hcap : s.cfg.gridCap = .inf)
    (hx : resizeCommand p s = .next t) : t.err.code = 0 ∧ t.status.rgridValid = true := by
  rcases resize_cases hx with ⟨bit, hm, rfl⟩ | ⟨-, ⟨-, rfl⟩ | ⟨-, g, -, ⟨r, -, rfl⟩ | ⟨e, he, rfl⟩⟩⟩
  · rw [missingResize_none.2 ht] at hm
    cases hm
  · simp
  · simp
  · simp only [resize, hcap, fits_inf] at he
    split at he <;> cases he

/-- With an unbounded output memory `PPMENC` has no error of its own (R245). -/
theorem ppmenc_succeeds (hr : s.status.rgridValid = true) (hcap : s.cfg.obufCap = .inf)
    (hx : ppmencCommand s = .next t) : t.err.code = 0 := by
  rcases ppmenc_cases hx with ⟨bit, hm, rfl⟩ | ⟨-, g, -, ⟨l, -, rfl⟩ | ⟨e, he, rfl⟩⟩
  · rw [missingPpmenc_none.2 hr] at hm
    cases hm
  · simp
  · rw [hcap, encodePpm_of_fits (fits_inf _)] at he
    cases he

/-- With unbounded memories a rendering instruction that has its input succeeds. -/
theorem rendering_succeeds {i : Instr} (hg : s.cfg.gridCap = .inf) (ho : s.cfg.obufCap = .inf)
    (hin : ownInput i s = true) (hx : exec i s = .next t) : t.err.code = 0 := by
  cases i with
  | xform b er eg eb => exact (xform_succeeds hin hx).1
  | xformId => exact (xform_succeeds hin hx).1
  | resize p => exact (resize_succeeds hin hg hx).1
  | ppmenc => exact ppmenc_succeeds hin ho hx
  | render b er eg eb p =>
    obtain ⟨u, hu, hx⟩ := andThen_next_iff.1 hx
    obtain ⟨v, hv, hx⟩ := andThen_next_iff.1 hx
    have hcu : u.cfg = s.cfg := (xform_keepsInputs hu).1.cfg
    have hcv : v.cfg = u.cfg := (resize_keepsInputs hv).1.cfg
    have htgrid := (xform_succeeds hin hu).2
    have hrgrid := (resize_succeeds htgrid (hcu ▸ hg) hv).2
    exact ppmenc_succeeds hrgrid (hcv ▸ hcu ▸ ho) hx
  | hparse => cases hin
  | palrd => cases hin
  | pxdec => cases hin
  | pxdec24 => cases hin
  | pxdec8 => cases hin
  | pxdec4 => cases hin
  | pxdec1 => cases hin
  | decode => cases hin

/-- Settles O51: the stages' errors are those of capacity, and each part of `RENDER` gives the next its input. -/
theorem renderingEndsInCapacityOrInputErrorsOnly : Obligations.RenderingEndsInCapacityOrInputErrorsOnly := by
  unfold Obligations.RenderingEndsInCapacityOrInputErrorsOnly
  exact fun i s t _ hr hx => ⟨rendering_code hr hx, fun hg ho hin => rendering_succeeds hg ho hin hx⟩

end Sys2Proof.Machine

/-! ## The assembler reads what is written (R120 to R123)

A line is a mnemonic, a space and operands joined by commas; no operand holds a space, a comma or a semicolon. -/

namespace Sys2Proof.Machine

/-! ### Trimming and splitting -/

/-- A text that is not empty and holds no separator of the assembler's. -/
abbrev Plain (l : List Char) : Prop := l ≠ [] ∧ ∀ c ∈ l, c ≠ ' ' ∧ c ≠ ',' ∧ c ≠ ';'

/-- A text that neither begins nor ends with a space, and is not empty. -/
def Tight (l : List Char) : Prop := (∃ c r, l = c :: r ∧ c ≠ ' ') ∧ ∃ r c, l = r ++ [c] ∧ c ≠ ' '

theorem Plain.no_space {l : List Char} (h : Plain l) : ∀ c ∈ l, c ≠ ' ' := fun c hc => (h.2 c hc).1

theorem Plain.no_comma {l : List Char} (h : Plain l) : ∀ c ∈ l, c ≠ ',' := fun c hc => (h.2 c hc).2.1

theorem Plain.no_comment {l : List Char} (h : Plain l) : ∀ c ∈ l, c ≠ ';' := fun c hc => (h.2 c hc).2.2

theorem Plain.tight {l : List Char} (h : Plain l) : Tight l :=
  ⟨⟨_, _, (List.cons_head_tail h.1).symm, h.no_space _ (List.head_mem h.1)⟩,
    ⟨_, _, (List.dropLast_concat_getLast h.1).symm, h.no_space _ (List.getLast_mem h.1)⟩⟩

theorem Tight.append {a b : List Char} (ha : Tight a) (hb : Tight b) (sep : List Char) : Tight (a ++ sep ++ b) := by
  obtain ⟨⟨c, r, rfl, hc⟩, -⟩ := ha
  obtain ⟨-, ⟨r', c', rfl, hc'⟩⟩ := hb
  exact ⟨⟨c, _, rfl, hc⟩, ⟨_, c', (List.append_assoc ..).symm, hc'⟩⟩

theorem trimSpaces_tight {l : List Char} (h : Tight l) : trimSpaces l = l := by
  obtain ⟨⟨c, r, hfront, hc⟩, ⟨r', c', hback, hc'⟩⟩ := h
  have hdrop : l.dropWhile (· == ' ') = l := by rw [hfront, List.dropWhile_cons_of_neg (by simpa using hc)]
  have hdrop' : l.reverse.dropWhile (· == ' ') = l.reverse := by
    rw [hback, List.reverse_append, List.reverse_singleton, List.singleton_append,
      List.dropWhile_cons_of_neg (by simpa using hc')]
  rw [trimSpaces, hdrop, hdrop', List.reverse_reverse]

theorem trimSpaces_space (l : List Char) : trimSpaces (' ' :: l) = trimSpaces l := rfl

theorem splitAt_plain {sep : Char} {l : List Char} (h : ∀ c ∈ l, c ≠ sep) : splitAt sep l = [l] := by
  induction l with
  | nil => rfl
  | cons c l ih =>
    obtain ⟨hc, hl⟩ := List.forall_mem_cons.1 h
    simp [splitAt, ih hl, hc]

theorem splitAt_ne_nil (sep : Char) (l : List Char) : splitAt sep l ≠ [] := by
  cases l with
  | nil => simp [splitAt]
  | cons c l =>
    rw [splitAt]
    split
    · simp
    · split <;> simp

theorem splitAt_append {sep : Char} {l : List Char} (h : ∀ c ∈ l, c ≠ sep) (rest : List Char) :
    splitAt sep (l ++ sep :: rest) = l :: splitAt sep rest := by
  induction l with
  | nil =>
    obtain ⟨p, ps, hp⟩ := List.exists_cons_of_ne_nil (splitAt_ne_nil sep rest)
    simp [splitAt, hp]
  | cons c l ih =>
    obtain ⟨hc, hl⟩ := List.forall_mem_cons.1 h
    simp [splitAt, ih hl, hc]

/-- The operands of a line as the assembler takes them apart. -/
def operands (ops : List Char) : List (List Char) := (splitAt ',' ops).map trimSpaces

/-- A space before the first operand has no effect. -/
theorem operands_space (l : List Char) : operands (' ' :: l) = operands l := by
  obtain ⟨p, ps, hp⟩ := List.exists_cons_of_ne_nil (splitAt_ne_nil ',' l)
  simp [operands, splitAt, hp, trimSpaces_space]

/-! ### A line of operands -/

/-- Operands as `instrText` writes them. -/
def joinOperands (p : List Char) : List (List Char) → List Char
  | [] => p
  | q :: rest => p ++ [',', ' '] ++ joinOperands q rest

theorem operands_joinOperands {ps : List (List Char)} : ∀ {p : List Char}, Plain p → (∀ q ∈ ps, Plain q) →
    operands (joinOperands p ps) = p :: ps := by
  induction ps with
  | nil =>
    intro p hp _
    rw [joinOperands, operands, splitAt_plain hp.no_comma, List.map_singleton, trimSpaces_tight hp.tight]
  | cons q ps ih =>
    intro p hp hps
    obtain ⟨hq, hps⟩ := List.forall_mem_cons.1 hps
    have hsplit : operands (p ++ ',' :: ' ' :: joinOperands q ps) = p :: operands (' ' :: joinOperands q ps) := by
      rw [operands, splitAt_append hp.no_comma, List.map_cons, trimSpaces_tight hp.tight, operands]
    rw [joinOperands, List.append_assoc]
    exact hsplit.trans (by rw [operands_space, ih hq hps])

theorem joinOperands_tight {ps : List (List Char)} : ∀ {p : List Char}, Plain p → (∀ q ∈ ps, Plain q) →
    Tight (joinOperands p ps) := by
  induction ps with
  | nil => exact fun hp _ => hp.tight
  | cons q ps ih =>
    intro p hp hps
    obtain ⟨hq, hps⟩ := List.forall_mem_cons.1 hps
    exact hp.tight.append (ih hq hps) _

/-- No operand begins a comment. -/
theorem joinOperands_no_comment {ps : List (List Char)} : ∀ {p : List Char}, Plain p → (∀ q ∈ ps, Plain q) →
    ∀ c ∈ joinOperands p ps, c ≠ ';' := by
  induction ps with
  | nil => exact fun hp _ => hp.no_comment
  | cons q ps ih =>
    intro p hp hps
    obtain ⟨hq, hps⟩ := List.forall_mem_cons.1 hps
    rw [joinOperands, List.forall_mem_append, List.forall_mem_append]
    exact ⟨⟨hp.no_comment, by simp⟩, ih hq hps⟩

/-- A line of a mnemonic and operands is read as the instruction of the two. -/
theorem assembleLine_of_operands {m ops : List Char} {i : Instr} (hm : Plain m) (hload : m ≠ "LOAD".toList)
    (hops : Tight ops) (hcomment : ∀ c ∈ ops, c ≠ ';') (hi : readInstr m ops = .ok i) :
    assembleLine (m ++ [' '] ++ ops) = .ok ((encode i).map HostAction.issue) := by
  have hline : Tight (m ++ [' '] ++ ops) := hm.tight.append hops _
  have hnone : ∀ c ∈ m ++ [' '] ++ ops, c ≠ ';' := by
    rw [List.forall_mem_append, List.forall_mem_append]
    exact ⟨⟨hm.no_comment, by simp⟩, hcomment⟩
  have htext : trimSpaces ((m ++ [' '] ++ ops).takeWhile (· != ';')) = m ++ ' ' :: ops := by
    rw [List.takeWhile_eq_self_iff.2 fun c hc => bne_iff_ne.2 (hnone c hc), trimSpaces_tight hline,
      List.append_assoc, List.singleton_append]
  have hword : ∀ c ∈ m, (c != ' ') = true := fun c hc => bne_iff_ne.2 (hm.no_space c hc)
  have hmnemonic : (m ++ ' ' :: ops).takeWhile (· != ' ') = m := by
    rw [List.takeWhile_append_of_pos hword, List.takeWhile_cons_of_neg (by simp), List.append_nil]
  have hrest : trimSpaces ((m ++ ' ' :: ops).dropWhile (· != ' ')) = ops := by
    rw [List.dropWhile_append_of_pos hword, List.dropWhile_cons_of_neg (by simp), trimSpaces_space,
      trimSpaces_tight hops]
  have hempty : (m ++ ' ' :: ops).isEmpty = false := by simp
  have hnoload : (m == "LOAD".toList) = false := beq_eq_false_iff_ne.2 hload
  simp only [assembleLine, htext, hmnemonic, hrest, hempty, hnoload, hi, Bool.false_eq_true, if_false]

/-! ### Integers and channels as they are written -/

theorem digitValue_asciiChar : ∀ d < 10, digitValue (asciiChar (digit d)) = some d := by decide

theorem asciiChar_digit_ne : ∀ d < 10, asciiChar (digit d) ≠ ' ' ∧ asciiChar (digit d) ≠ ',' ∧
    asciiChar (digit d) ≠ ';' ∧ asciiChar (digit d) ≠ '-' := by decide

/-- The text of a list of digits. -/
def digitsText (l : List Nat) : List Char := (l.map digit).map asciiChar

theorem readDigits_digitsText {l : List Nat} (hl : ∀ d ∈ l, d < 10) (acc : Nat) :
    readDigits acc (digitsText l) = some (numeralValue acc l) := by
  induction l generalizing acc with
  | nil => rfl
  | cons d l ih =>
    obtain ⟨hd, hl⟩ := List.forall_mem_cons.1 hl
    rw [digitsText, List.map_cons, List.map_cons, readDigits, digitValue_asciiChar d hd]
    exact ih hl _

theorem mem_digitsText {l : List Nat} {c : Char} (hl : ∀ d ∈ l, d < 10) (hc : c ∈ digitsText l) :
    c ≠ ' ' ∧ c ≠ ',' ∧ c ≠ ';' ∧ c ≠ '-' := by
  obtain ⟨b, hb, rfl⟩ := List.mem_map.1 hc
  obtain ⟨d, hd, rfl⟩ := List.mem_map.1 hb
  exact asciiChar_digit_ne d (hl d hd)

/-- The numeral of a number, as text: its first character is no sign, and it is read as the number. -/
theorem readNat_dec (n : Nat) : ∃ c r, (dec n).map asciiChar = c :: r ∧ c ≠ '-' ∧ Plain (c :: r) ∧
    readNat (c :: r) = some n := by
  obtain ⟨l, hdec, hne, hl, hval⟩ := dec_spec n
  have htext : (dec n).map asciiChar = digitsText l := congrArg (List.map asciiChar) hdec
  have hnil : digitsText l ≠ [] := by simpa [digitsText] using hne
  obtain ⟨c, r, hcr⟩ := List.exists_cons_of_ne_nil hnil
  have hmem : ∀ x ∈ c :: r, x ≠ ' ' ∧ x ≠ ',' ∧ x ≠ ';' ∧ x ≠ '-' := fun x hx => mem_digitsText hl (hcr ▸ hx)
  refine ⟨c, r, htext.trans hcr, (hmem c List.mem_cons_self).2.2.2, ⟨by simp, fun x hx => ?_⟩, ?_⟩
  · obtain ⟨h1, h2, h3, -⟩ := hmem x hx
    exact ⟨h1, h2, h3⟩
  · rw [readNat, ← hcr, readDigits_digitsText hl, hval]

theorem intText_of_neg {v : Int} (h : v < 0) : intText v = '-' :: (dec v.natAbs).map asciiChar := by
  rw [intText, if_pos h, List.singleton_append]

theorem intText_of_nonneg {v : Int} (h : ¬v < 0) : intText v = (dec v.natAbs).map asciiChar := by
  rw [intText, if_neg h, List.nil_append]

theorem readInt_intText (v : Int) : readInt (intText v) = some v := by
  obtain ⟨c, r, htext, hc, -, hread⟩ := readNat_dec v.natAbs
  by_cases hv : v < 0
  · rw [intText_of_neg hv, htext, readInt, hread]
    exact congrArg some (show -(v.natAbs : Int) = v by omega)
  · rw [intText_of_nonneg hv, htext, readInt, if_neg (by simpa using hc), hread]
    exact congrArg some (show (v.natAbs : Int) = v by omega)

theorem plain_intText (v : Int) : Plain (intText v) := by
  obtain ⟨c, r, htext, -, ⟨hne, hplain⟩, -⟩ := readNat_dec v.natAbs
  by_cases hv : v < 0
  · rw [intText_of_neg hv, htext]
    exact ⟨by simp, List.forall_mem_cons.2 ⟨by decide, hplain⟩⟩
  · rw [intText_of_nonneg hv, htext]
    exact ⟨hne, hplain⟩

theorem readChans_chansText : ∀ er eg eb : Bool, readChans (chansText er eg eb) = some (er, eg, eb) := by decide

theorem plain_chansText (er eg eb : Bool) : Plain (chansText er eg eb) := by
  cases er <;> cases eg <;> cases eb <;> simp [chansText, Plain]

/-! ### Each instruction's line -/

/-- The same of operands joined as `instrText` writes them. -/
theorem assembleLine_join {m p : List Char} {ps : List (List Char)} {i : Instr} (hm : Plain m)
    (hload : m ≠ "LOAD".toList) (hp : Plain p) (hps : ∀ q ∈ ps, Plain q)
    (hi : readInstr m (joinOperands p ps) = .ok i) :
    assembleLine (m ++ [' '] ++ joinOperands p ps) = .ok ((encode i).map HostAction.issue) :=
  assembleLine_of_operands hm hload (joinOperands_tight hp hps) (joinOperands_no_comment hp hps) hi

theorem readInstr_xform (ops : List Char) :
    readInstr "XFORM".toList ops = readXform (operands ops) := by
  simp [readInstr, operands]

theorem readInstr_resize (ops : List Char) :
    readInstr "RESIZE".toList ops = readResize (operands ops) := by
  simp [readInstr, operands]

theorem readInstr_render (ops : List Char) :
    readInstr "RENDER".toList ops = readRender (operands ops) := by
  simp [readInstr, operands]

theorem inRange_ok {i : Instr} (h : i.wf = true) : inRange i = .ok i := if_pos h

/-- Each line is its mnemonic, a space and its operands joined. -/
theorem instrText_xform (b : Int) (er eg eb : Bool) : instrText (.xform b er eg eb) =
    "XFORM".toList ++ [' '] ++ joinOperands (intText b) [chansText er eg eb] := by
  rw [show instrText (.xform b er eg eb) = "XFORM ".toList ++ intText b ++ ", ".toList ++ chansText er eg eb from rfl]
  simp [joinOperands]

theorem instrText_resize (p : Int) : instrText (.resize p) = "RESIZE".toList ++ [' '] ++ joinOperands (intText p) [] := by
  rw [show instrText (.resize p) = "RESIZE ".toList ++ intText p from rfl]
  simp [joinOperands]

theorem instrText_render (b : Int) (er eg eb : Bool) (p : Int) : instrText (.render b er eg eb p) =
    "RENDER".toList ++ [' '] ++ joinOperands (intText b) [chansText er eg eb, intText p] := by
  rw [show instrText (.render b er eg eb p) = "RENDER ".toList ++ intText b ++ ", ".toList ++ chansText er eg eb ++
    ", ".toList ++ intText p from rfl]
  simp [joinOperands]

theorem assembleLine_xform {b : Int} {er eg eb : Bool} (h : (Instr.xform b er eg eb).wf = true) :
    assembleLine (instrText (.xform b er eg eb)) =
      .ok ((encode (.xform b er eg eb)).map HostAction.issue) := by
  have hp := plain_intText b
  have hps : ∀ q ∈ [chansText er eg eb], Plain q := List.forall_mem_singleton.2 (plain_chansText ..)
  rw [instrText_xform]
  refine assembleLine_join (by simp [Plain]) (by simp) hp hps ((readInstr_xform _).trans ?_)
  rw [operands_joinOperands hp hps, readXform, readInt_intText, readChans_chansText]
  exact inRange_ok h

theorem assembleLine_resize {p : Int} (h : (Instr.resize p).wf = true) :
    assembleLine (instrText (.resize p)) = .ok ((encode (.resize p)).map HostAction.issue) := by
  have hp := plain_intText p
  rw [instrText_resize]
  refine assembleLine_join (by simp [Plain]) (by simp) hp (by simp) ((readInstr_resize _).trans ?_)
  rw [operands_joinOperands hp (by simp), readResize, readInt_intText]
  exact inRange_ok h

theorem assembleLine_render {b p : Int} {er eg eb : Bool} (h : (Instr.render b er eg eb p).wf = true) :
    assembleLine (instrText (.render b er eg eb p)) =
      .ok ((encode (.render b er eg eb p)).map HostAction.issue) := by
  have hp := plain_intText b
  have hps : ∀ q ∈ [chansText er eg eb, intText p], Plain q :=
    List.forall_mem_cons.2 ⟨plain_chansText .., List.forall_mem_singleton.2 (plain_intText p)⟩
  rw [instrText_render]
  refine assembleLine_join (by simp [Plain]) (by simp) hp hps ((readInstr_render _).trans ?_)
  rw [operands_joinOperands hp hps, readRender, readInt_intText, readChans_chansText, readInt_intText]
  exact inRange_ok h

/-- Settles O5: a line without operands is run, and one with operands is taken apart where it was put together. -/
theorem assemblerReadsWhatIsWritten : Obligations.AssemblerReadsWhatIsWritten := by
  unfold Obligations.AssemblerReadsWhatIsWritten
  intro i hi
  cases i with
  | hparse => decide
  | palrd => decide
  | pxdec => decide
  | pxdec24 => decide
  | pxdec8 => decide
  | pxdec4 => decide
  | pxdec1 => decide
  | ppmenc => decide
  | decode => decide
  | xformId => decide
  | xform b er eg eb => exact assembleLine_xform hi
  | resize p => exact assembleLine_resize hi
  | render b er eg eb p => exact assembleLine_render hi

end Sys2Proof.Machine

/-! ## `HPARSE` rejects, and what a decode and a rendering that succeed have done

First the parser: its five checks, and the bytes it looks at. Then `DECODE` and `RENDER` taken apart from their end: an
`ERR.CODE` of 0 says that every part completed, so the grid is the file's and the image is the grid's. -/

namespace Sys2Proof.Machine

variable {s t : State}

/-! ### The five checks of the header (R132 to R138) -/

section
variable {buf : List Byte}

theorem parseHeader_short (hlen : buf.length < 54) : parseHeader buf = .error ⟨.invalidFormat, 1⟩ := if_pos hlen

theorem parseHeader_long (hlen : 54 ≤ buf.length) : parseHeader buf =
    if ¬(byteAt buf 0 = 0x42#8 ∧ byteAt buf 1 = 0x4D#8) then .error ⟨.invalidFormat, 2⟩
    else if memRead buf 30 4 ≠ 0 then .error ⟨.unsupportedFeature, memRead buf 30 4⟩
    else if memRead buf 28 2 ∉ [1, 4, 8, 24] then .error ⟨.unsupportedDepth, memRead buf 28 2⟩
    else if sext32 (memRead buf 18 4) ≤ 0 ∨ sext32 (memRead buf 22 4) = 0 then .error ⟨.invalidFormat, 3⟩
    else .ok (headerFields buf) := by
  rw [parseHeader, if_neg (Nat.not_lt.2 hlen)]
  simp only [not_and_or, ne_eq]

end

/-- `HPARSE` on a file whose header the parser rejects (R131). -/
theorem exec_hparse_rejects {buf : List Byte} {e : Raise} (hi : s.status.ibufValid = true) (hf : fileOf s = .ok buf)
    (he : parseHeader buf = .error e) : exec .hparse s = .next (endsInError (errorCode e.kind) 1 e.info
      { s.status with
        metaValid := false, palValid := false, ogridValid := false, tgridValid := false, rgridValid := false
        obufValid := false } s) := by
  rw [← hparseEnd_error, ← he]
  exact hparse_eq hi hf

/-- Settles O21: each file fails at the first check it does not pass. -/
theorem hparseRejectsInOrder : Obligations.HparseRejectsInOrder := by
  unfold Obligations.HparseRejectsInOrder
  intro s buf hi hf
  refine ⟨fun hlen => ?_, fun hlen hmagic => ?_, fun hlen hmagic hcomp => ?_, fun hlen hmagic hcomp hbpp => ?_,
    fun hlen hmagic hcomp hbpp hdims => ?_⟩
  · exact exec_hparse_rejects hi hf (parseHeader_short hlen)
  · exact exec_hparse_rejects hi hf (by rw [parseHeader_long hlen, if_pos hmagic])
  · exact exec_hparse_rejects hi hf (by rw [parseHeader_long hlen, if_neg (not_not.2 hmagic), if_pos hcomp])
  · exact exec_hparse_rejects hi hf (by
      rw [parseHeader_long hlen, if_neg (not_not.2 hmagic), if_neg (not_not.2 hcomp), if_pos hbpp])
  · exact exec_hparse_rejects hi hf (by
      rw [parseHeader_long hlen, if_neg (not_not.2 hmagic), if_neg (not_not.2 hcomp), if_neg (not_not.2 hbpp),
        if_pos hdims])

/-! ### The bytes the parser looks at (R130, R135, U5) -/

/-- Settles O22: the magic and the eight fields lie at the offsets on which the files agree. -/
theorem unreadHeaderBytesHaveNoEffect : Obligations.UnreadHeaderBytesHaveNoEffect := by
  unfold Obligations.UnreadHeaderBytesHaveNoEffect
  intro buf buf' hlen hlen' hagree
  have h0 : byteAt buf 0 = byteAt buf' 0 := hagree 0 (by decide)
  have h1 : byteAt buf 1 = byteAt buf' 1 := hagree 1 (by decide)
  have hfilesize : memRead buf 2 4 = memRead buf' 2 4 := memRead_congr 4 fun k _ _ => hagree k (by omega)
  have hpixoff : memRead buf 10 4 = memRead buf' 10 4 := memRead_congr 4 fun k _ _ => hagree k (by omega)
  have hhdrsize : memRead buf 14 4 = memRead buf' 14 4 := memRead_congr 4 fun k _ _ => hagree k (by omega)
  have hwidth : memRead buf 18 4 = memRead buf' 18 4 := memRead_congr 4 fun k _ _ => hagree k (by omega)
  have hheight : memRead buf 22 4 = memRead buf' 22 4 := memRead_congr 4 fun k _ _ => hagree k (by omega)
  have hbpp : memRead buf 28 2 = memRead buf' 28 2 := memRead_congr 2 fun k _ _ => hagree k (by omega)
  have hcomp : memRead buf 30 4 = memRead buf' 30 4 := memRead_congr 4 fun k _ _ => hagree k (by omega)
  have hcount : memRead buf 46 4 = memRead buf' 46 4 := memRead_congr 4 fun k _ _ => hagree k (by omega)
  have hfields : headerFields buf = headerFields buf' := by
    simp only [headerFields, hfilesize, hpixoff, hhdrsize, hwidth, hheight, hbpp, hcomp, hcount]
  rw [parseHeader_long hlen, parseHeader_long hlen', h0, h1, hcomp, hbpp, hwidth, hheight, hfields]

/-! ### A decode that succeeded, from its end (R186) -/

theorem takeError_code_ne_zero {e : Raise} {k : BitVec 4} : (takeError e k s).err.code ≠ 0 := errorCode_ne_zero e.kind

/-- A `HPARSE` that ended with code 0 has accepted the file's header. -/
theorem hparse_of_success (hx : hparseCommand s = .next t) (hc : t.err.code = 0) :
    ∃ buf, fileOf s = .ok buf ∧ parseHeader buf = .ok t.imeta := by
  rcases hparse_cases hx with ⟨bit, -, rfl⟩ | ⟨-, buf, hf, ⟨m, hm, rfl⟩ | ⟨e, -, rfl⟩⟩
  · exact absurd hc takeError_code_ne_zero
  · exact ⟨buf, hf, hm⟩
  · exact absurd hc takeError_code_ne_zero

/-- A `PXDEC` that ended with code 0 has decoded the file's pixels into OGRID. -/
theorem pxdec_of_success (hx : pxdecCommand s = .next t) (hc : t.err.code = 0) :
    t.status.ogridValid = true ∧ ∃ buf d pal g, fileOf s = .ok buf ∧ depthOf t.imeta.bpp = some d ∧
      decodePixels s.cfg.gridCap d t.imeta pal buf = .ok g ∧ ogridOf t = .ok g := by
  rcases pxdec_cases hx with
    ⟨bit, -, rfl⟩ | ⟨-, -, -, d, pal, buf, hd, -, hf, ⟨g, hg, rfl⟩ | ⟨e, -, rfl⟩⟩
  · exact absurd hc takeError_code_ne_zero
  · exact ⟨rfl, buf, d, pal, g, hf, hd, hg, ogridOf_storeOgrid (decodePixels_size hg) _⟩
  · exact absurd hc takeError_code_ne_zero

/-- A `DECODE` that ended with code 0 began with a `HPARSE` that did, and ended with a `PXDEC` that found what that
left. -/
theorem decode_parts_of_success (hx : decodeCommand s = .next t) (hc : t.err.code = 0) :
    ∃ u v, hparseCommand s = .next u ∧ u.err.code = 0 ∧ (KeepsFile u v ∧ KeepsMeta u v) ∧
      pxdecCommand v = .next t := by
  obtain ⟨u, hu, hx⟩ := andThen_next_iff.1 hx
  rcases unlessError_next hx with ⟨hcu, hx⟩ | ⟨hne, rfl⟩
  · by_cases hidx : indexed u.imeta = true
    · rw [if_pos hidx] at hx
      obtain ⟨v, hv, hx⟩ := andThen_next_iff.1 hx
      rcases unlessError_next hx with ⟨-, hx⟩ | ⟨hne, rfl⟩
      · exact ⟨u, v, hu, hcu, palrd_keeps hv, hx⟩
      · exact absurd hc hne
    · rw [if_neg hidx] at hx
      exact ⟨u, u, hu, hcu, ⟨by constructor <;> rfl, rfl, rfl⟩, hx⟩
  · exact absurd hc hne

/-- A `DECODE` that ended with code 0 leaves the metadata and the pixels of the file. -/
theorem decode_of_success {buf : List Byte} (hf : fileOf s = .ok buf) (hx : decodeCommand s = .next t)
    (hc : t.err.code = 0) : parseHeader buf = .ok t.imeta ∧ t.status.ogridValid = true ∧
      ∃ d pal g, depthOf t.imeta.bpp = some d ∧ decodePixels s.cfg.gridCap d t.imeta pal buf = .ok g ∧
        ogridOf t = .ok g := by
  obtain ⟨u, v, hu, hcu, ⟨hfile, hmeta⟩, hv⟩ := decode_parts_of_success hx hc
  obtain ⟨bufu, hbufu, hparse⟩ := hparse_of_success hu hcu
  obtain ⟨hvalid, bufv, d, pal, g, hbufv, hd, hg, hogrid⟩ := pxdec_of_success hv hc
  have hsv := (hparse_keepsFile hu).trans hfile
  have hmt : t.imeta = u.imeta := (pxdec_keeps hv).2.imeta.trans hmeta.imeta
  obtain rfl : bufu = buf := Except.ok.inj (hbufu.symm.trans hf)
  obtain rfl : bufv = bufu := Except.ok.inj ((hbufv.symm.trans hsv.fileOf_eq).trans hf)
  rw [hsv.cfg] at hg
  exact ⟨hmt ▸ hparse, hvalid, d, pal, g, hd, hg, hogrid⟩

/-- Settles O36: the header's fields are the metadata, whose dimensions are those of the decoded grid. -/
theorem decodedDimensionsAreTheHeaders : Obligations.DecodedDimensionsAreTheHeaders := by
  unfold Obligations.DecodedDimensionsAreTheHeaders
  intro s t buf hf hx hc
  obtain ⟨hparse, -, d, pal, g, -, hg, hogrid⟩ := decode_of_success hf hx hc
  obtain ⟨-, -, -, -, hpos, -, hfields⟩ := parseHeader_ok_iff.1 hparse
  obtain ⟨hgw, hgh, -⟩ := decodePixels_dims hg
  obtain ⟨how, hoh, -⟩ := gridOf_ok hogrid
  have hwidth : t.imeta.width.toInt = sext32 (memRead buf 18 4) := hfields ▸ headerFields_width buf
  have hheight : (t.imeta.height.toNat : Int) = |sext32 (memRead buf 22 4)| := hfields ▸ headerFields_height buf
  refine ⟨hwidth, ?_, hheight, ?_⟩
  · rw [← how, hgw, widthOf, hwidth, Int.toNat_of_nonneg (Int.le_of_lt hpos)]
  · rw [← hoh, hgh, heightOf, hheight]

/-! ### A rendering that succeeded, from its end (R122) -/

/-- A `RENDER` that ended with code 0 leaves the image of the transformed and resized grid. -/
theorem render_of_success {g : Grid} {b p : Int} {er eg eb : Bool} (ho : s.status.ogridValid = true)
    (hg : ogridOf s = .ok g) (hx : execRender b er eg eb p s = .next t) (hc : t.err.code = 0) :
    ∃ r, resize s.cfg.gridCap p (transform s.cfg.numerics b er eg eb g) = .ok r ∧ imageOf t = .ok (ppm r) := by
  cases hr : resize s.cfg.gridCap p (transform s.cfg.numerics b er eg eb g) with
  | error e =>
    rw [render_badResize ho hg hr] at hx
    cases hx
    exact absurd hc takeError_code_ne_zero
  | ok r =>
    rw [render_goodResize ho hg hr] at hx
    cases hx
    cases hl : encodePpm s.cfg.obufCap r with
    | error e =>
      rw [hl] at hc
      exact absurd hc takeError_code_ne_zero
    | ok l =>
      obtain ⟨rfl, -⟩ := encodePpm_ok hl
      exact ⟨r, rfl, imageOf_storeObuf ..⟩

/-! ### Brightness 100 and 100 percent change nothing (R209, R227) -/

/-- 100 hundredths of a channel are the channel, under either numerics: for `binary64` the 256 products are run. -/
theorem scale_hundred (num : Numerics) (c : Byte) : scale num c 100 = c := by
  have hclamp : clampChannel (c.toNat : Int) = c := by
    have := c.isLt
    rw [clampChannel, show (min 255 (max 0 (c.toNat : Int))).toNat = c.toNat by omega, BitVec.ofNat_toNat,
      BitVec.setWidth_eq]
  cases num with
  | exact => rw [scale, scaledExact, Int.mul_tdiv_cancel _ (by decide), hclamp]
  | binary64 =>
    have hproduct : ∀ n < 256, scaledDouble n 100 = n := by decide +kernel
    rw [scale, hproduct c.toNat c.isLt, hclamp]

theorem transform_hundred (num : Numerics) (g : Grid) : transform num 100 true true true g = g := by
  have hpixel : transformPixel num 100 true true true = id := by
    funext p
    simp [transformPixel, chan, scale_hundred]
  simp [transform, hpixel]

/-- A grid's pixels are its rows, one after the other (R36). -/
theorem flatMap_gridRow {g : Grid} (hw : 0 < g.w) (hpx : g.px.length = g.w * g.h) :
    (List.range g.h).flatMap (gridRow g) = g.px := by
  have hrows : ∀ r ∈ (List.range g.h).map (gridRow g), r.length = g.w := by simp [gridRow]
  have hlen : ((List.range g.h).flatMap (gridRow g)).length = g.px.length := by
    rw [List.flatMap, flatten_length hrows, List.length_map, List.length_range, hpx, Nat.mul_comm]
  refine List.ext_getElem? fun i => ?_
  by_cases hi : i < g.px.length
  · have hx : i % g.w < g.w := Nat.mod_lt i hw
    have hy : i / g.w < g.h := Nat.div_lt_of_lt_mul (hpx ▸ hi)
    have hrow : (gridRow g (i / g.w))[i % g.w]? = some (pixelAt g (i % g.w) (i / g.w)) := by simp [gridRow, hx]
    have hsplit : i / g.w * g.w + i % g.w = i := Nat.div_add_mod' i g.w
    calc ((List.range g.h).flatMap (gridRow g))[i]?
        = (((List.range g.h).map (gridRow g))[i / g.w]?).bind (·[i % g.w]?) := by
          rw [← flatten_getElem? hrows _ _ hx, hsplit, List.flatMap]
      _ = some (pixelAt g (i % g.w) (i / g.w)) := by simp [hy, hrow]
      _ = g.px[i]? := by simp [pixelAt, hsplit, hi]
  · rw [List.getElem?_eq_none (hlen ▸ Nat.le_of_not_lt hi), List.getElem?_eq_none (Nat.le_of_not_lt hi)]

theorem newDim_hundred {n : Nat} (hn : 1 ≤ n) : newDim n 100 = n := by
  rw [newDim, Nat.mul_div_cancel n (by decide), Nat.max_eq_right hn]

/-- Every target pixel of a grid's own size is the source pixel at the same place (R224). -/
theorem resample_self {g : Grid} (hw : 0 < g.w) (hh : 0 < g.h) (hpx : g.px.length = g.w * g.h) :
    resample g g.w g.h = g := by
  have hrows : (resample g g.w g.h).px = (List.range g.h).flatMap (gridRow g) := by
    simp only [resample, sourceCoord, Nat.mul_div_cancel _ hw, Nat.mul_div_cancel _ hh]
    rfl
  exact congrArg (Grid.mk g.w g.h) (hrows.trans (flatMap_gridRow hw hpx))

theorem resize_hundred {cap : Capacity} {g r : Grid} (hw : 1 ≤ g.w) (hh : 1 ≤ g.h) (hpx : g.px.length = g.w * g.h)
    (hr : resize cap 100 g = .ok r) : r = g := by
  rcases resize_ok hr with ⟨hle, -⟩ | ⟨-, rfl, -⟩
  · exact absurd hle (by decide)
  · rw [show (100 : Int).toNat = 100 from rfl, newDim_hundred hw, newDim_hundred hh, resample_self hw hh hpx]

/-! ### The pixels of a true-colour file (R171, R178) -/

/-- The stored size of a row is the decoder's (R167). -/
theorem scanline_eq_storedRow {m : Metadata} {d : Depth} (hd : depthOf m.bpp = some d) :
    scanline d m = storedRow m.bpp.toNat (widthOf m) := by
  rcases depthOf_cases hd with ⟨hb, rfl⟩ | ⟨hb, rfl⟩ | ⟨hb, rfl⟩ | ⟨hb, rfl⟩ <;> rw [hb] <;> rfl

/-- Grid row `y` begins in the file where its file row does (R168, R178). -/
theorem storedAt_eq_rowOffset {m : Metadata} {d : Depth} (hd : depthOf m.bpp = some d) (y : Nat) :
    storedAt m y = rowOffset d m (storedRowOf m.topdown (heightOf m) y) := by
  rw [rowOffset, scanline_eq_storedRow hd, storedAt]

/-- Rows in file order, arranged top-down: grid row `y` is the file row it comes from (R178). -/
theorem topDown_map (m : Metadata) (h : Nat) (row : Nat → List RGB) :
    topDown m ((List.range h).map row) = (List.range h).flatMap fun y => row (storedRowOf m.topdown h y) := by
  cases htop : m.topdown with
  | true => simp [topDown, htop, storedRowOf, List.flatMap]
  | false =>
    have hreverse : (List.range h).reverse = (List.range h).map (h - 1 - ·) := by
      rw [List.range_eq_range', List.reverse_range', Nat.zero_add, List.range_eq_range']
    simp [topDown, htop, ← List.map_reverse, hreverse, storedRowOf, List.flatMap, Function.comp_def]

/-- A function that never fails is mapped. -/
theorem collect_total {α β ε : Type} (f : α → β) (xs : List α) :
    collect (fun x => (.ok (f x) : Except ε β)) xs = .ok (xs.map f) := by
  rw [collect_eq_ok_iff, List.map_map]
  rfl

/-- What a true-colour file decodes to, row by row from the visual top. -/
theorem decodePixels_trueColour {cap : Capacity} {m : Metadata} {pal : List RGB} {buf : List Byte} {g : Grid}
    (hd : depthOf m.bpp = some .d24) (hg : decodePixels cap .d24 m pal buf = .ok g) :
    g.px = (List.range (heightOf m)).flatMap fun y => (List.range (widthOf m)).map (pixel24 buf (storedAt m y)) := by
  obtain ⟨-, -, rows, hrows, -, -, rfl⟩ := decodePixels_ok hg
  have hrow : decodeRow .d24 m pal buf =
      fun r => .ok ((List.range (widthOf m)).map (pixel24 buf (rowOffset .d24 m r))) :=
    funext fun r => collect_total _ _
  rw [hrow, collect_total] at hrows
  cases hrows
  simp only [topDown_map, storedAt_eq_rowOffset hd]

/-- The body of a pixmap of a grid given row by row (R243). -/
theorem ppmBody_rows (w h : Nat) (pixel : Nat → Nat → RGB) :
    ppmBody ((List.range h).flatMap fun y => (List.range w).map (pixel y)) =
      (List.range h).flatMap fun y => (List.range w).flatMap fun x =>
        [(pixel y x).r, (pixel y x).g, (pixel y x).b] := by
  simp only [ppmBody, List.flatMap_assoc, List.flatMap_map]

/-- Settles O52: the grid is the file's triples, both stages at 100 leave it as it is, and its image swaps each triple. -/
theorem identityPipelineSwapsChannels : Obligations.IdentityPipelineSwapsChannels := by
  unfold Obligations.IdentityPipelineSwapsChannels
  intro s s1 t buf hf hdec hc1 hbpp hren hct
  obtain ⟨hparse, hvalid, d, pal, g, hd, hg, hogrid⟩ := decode_of_success hf hdec hc1
  obtain rfl : d = .d24 := by_contra fun hne => by simpa [indexed, hbpp] using (indexed_iff hd).2 hne
  obtain ⟨r, hr, himage⟩ := render_of_success hvalid hogrid hren hct
  have hmeta := parseHeader_metaOk hparse
  obtain ⟨hgw, hgh, -⟩ := decodePixels_dims hg
  have hw : 1 ≤ g.w := by
    have := hmeta.widthPos
    rw [hgw, widthOf]
    omega
  have hh : 1 ≤ g.h := hgh ▸ hmeta.heightPos
  rw [transform_hundred] at hr
  rw [himage, resize_hundred hw hh (decodePixels_size hg) hr, ppm, hgw, hgh, decodePixels_trueColour hd hg, ppmBody_rows]
  rfl

end Sys2Proof.Machine

/-! ## `PALRD` rejects, and what it leaves out; `DECODE` as its parts -/

namespace Sys2Proof.Machine

variable {s t u : State}

/-! ### The parts of a `DECODE` that succeeded, issued one by one (R156, R186) -/

/-- After a `HPARSE` that accepted a header of depth 24, `PALRD` changes nothing (R156). -/
theorem palrd_after_trueColour_hparse (hx : hparseCommand s = .next u) (hc : u.err.code = 0)
    (hidx : ¬indexed u.imeta = true) : palrdCommand u = .next u := by
  rcases hparse_cases hx with ⟨bit, -, rfl⟩ | ⟨hi, buf, -, ⟨m, hm, rfl⟩ | ⟨e, -, rfl⟩⟩
  · exact absurd hc takeError_code_ne_zero
  · obtain ⟨d, hd⟩ := (parseHeader_metaOk hm).depth_some
    obtain rfl : d = .d24 := by_contra fun hne => hidx ((indexed_iff hd).2 hne)
    rw [palrd_trueColour (by simpa using hi) (by simp) (by simpa using hd), succeed_succeed]
  · exact absurd hc takeError_code_ne_zero

/-- The three parts of `DECODE`, none left out and none stopping the next. -/
theorem execAll_decodeParts (s : State) : execAll [.hparse, .palrd, .pxdec] s =
    andThen (hparseCommand s) fun u => andThen (palrdCommand u) pxdecCommand := by
  refine congrArg (andThen _) (funext fun u => congrArg (andThen _) (funext fun v => ?_))
  exact andThen_pure (pxdecCommand v)

/-- A `DECODE` that ended with code 0 did what `HPARSE`, `PALRD` and `PXDEC` do one after the other. -/
theorem execAll_of_decode_success (hx : decodeCommand s = .next t) (hc : t.err.code = 0) :
    execAll [.hparse, .palrd, .pxdec] s = .next t := by
  rw [execAll_decodeParts]
  obtain ⟨u, hu, hx⟩ := andThen_next_iff.1 hx
  refine andThen_next_iff.2 ⟨u, hu, ?_⟩
  rcases unlessError_next hx with ⟨hcu, hx⟩ | ⟨hne, rfl⟩
  · by_cases hidx : indexed u.imeta = true
    · rw [if_pos hidx] at hx
      obtain ⟨v, hv, hx⟩ := andThen_next_iff.1 hx
      rcases unlessError_next hx with ⟨-, hx⟩ | ⟨hne, rfl⟩
      · exact andThen_next_iff.2 ⟨v, hv, hx⟩
      · exact absurd hc hne
    · rw [if_neg hidx] at hx
      exact andThen_next_iff.2 ⟨u, palrd_after_trueColour_hparse hu hcu hidx, hx⟩
  · exact absurd hc hne

/-- Settles O33: the three words decode to the parts of `DECODE`, which on success are its meaning, and no meaning
looks at the queue or the generations. -/
theorem decodeIsItsPartsIssued : Obligations.DecodeIsItsPartsIssued := by
  unfold Obligations.DecodeIsItsPartsIssued
  intro s t hp hb hx hc
  have hwords : [0x01000000#32, 0x02000000#32, 0x03000000#32].map decode =
      [Instr.hparse, .palrd, .pxdec].map Except.ok := by decide
  have hrun := steps_issue t.gens s.gens hwords hb
  have hpend : t.pending = [] := (exec_keepsFile rfl hx).pending.trans hp
  rw [execAll_of_decode_success hx hc] at hrun
  rw [andThen, ← hpend, beside_self] at hrun
  exact hrun

/-! ### `PALRD` rejects, in order (R151, R271) -/

section
variable {cap : Capacity} {m : Metadata} {buf : List Byte}

theorem readPalette_eq : readPalette cap m buf =
    if buf.length < paletteBase m + 4 * m.palcount.toNat then .error ⟨.truncatedData, 1⟩
    else if !fits cap m.palcount.toNat then .error ⟨.capacityExceeded, 1⟩
    else .ok (colourTable m buf) := rfl

theorem readPalette_truncated (hlen : buf.length < paletteBase m + 4 * m.palcount.toNat) :
    readPalette cap m buf = .error ⟨.truncatedData, 1⟩ := if_pos hlen

theorem readPalette_overCapacity (hlen : paletteBase m + 4 * m.palcount.toNat ≤ buf.length)
    (hcap : fits cap m.palcount.toNat = false) : readPalette cap m buf = .error ⟨.capacityExceeded, 1⟩ := by
  simp [readPalette_eq, hcap, Nat.not_lt.2 hlen]

end

/-- `PALRD` at depth 8, 4 or 1 on a file whose colour table the reader rejects (R151). -/
theorem exec_palrd_rejects {buf : List Byte} {e : Raise} (hi : s.status.ibufValid = true)
    (hm : s.status.metaValid = true) (hbpp : s.imeta.bpp.toNat ∈ [1, 4, 8]) (hf : fileOf s = .ok buf)
    (he : readPalette s.cfg.palCap s.imeta buf = .error e) :
    exec .palrd s = .next (endsInError (errorCode e.kind) 2 e.info
      { s.status with
        palValid := false, ogridValid := false, tgridValid := false, rgridValid := false, obufValid := false } s) := by
  obtain ⟨hx, d, hd⟩ := depthOf_indexed hbpp
  rw [← palrdEnd_error, ← he]
  exact palrd_eq hi hm hd hx hf

/-- Settles O24: a table beyond the file fails the extent test; one inside it can fail the capacity test. -/
theorem palrdRejectsInOrder : Obligations.PalrdRejectsInOrder := by
  unfold Obligations.PalrdRejectsInOrder
  intro s buf hi hm hbpp hf
  exact ⟨fun hlen => exec_palrd_rejects hi hm hbpp hf (readPalette_truncated hlen),
    fun hlen hcap => exec_palrd_rejects hi hm hbpp hf (readPalette_overCapacity hlen hcap)⟩

/-! ### What `PALRD` does not look at and does not change (R154, R156) -/

theorem bgrAt_congr {buf buf' : List Byte} {a : Nat} (h : ∀ k < 3, byteAt buf (a + k) = byteAt buf' (a + k)) :
    bgrAt buf a = bgrAt buf' a := by
  have hb : byteAt buf a = byteAt buf' a := h 0 (by decide)
  rw [bgrAt, bgrAt, h 2 (by decide), h 1 (by decide), hb]

/-- Settles O26: both tests look at the length only, and an entry at its first three bytes. -/
theorem fourthPaletteByteHasNoEffect : Obligations.FourthPaletteByteHasNoEffect := by
  unfold Obligations.FourthPaletteByteHasNoEffect
  intro cap m buf buf' hlen hagree
  have htable : colourTable m buf = colourTable m buf' :=
    List.map_congr_left fun i hi => bgrAt_congr (hagree i (List.mem_range.1 hi))
  rw [readPalette_eq, readPalette_eq, hlen, htable]

/-- Settles O25: at depth 24 there is nothing to read, and success with `BUSY` at 0 changes `ERR` and `ERR_INFO`
only. -/
theorem palrdAtDepth24ChangesNothing : Obligations.PalrdAtDepth24ChangesNothing := by
  unfold Obligations.PalrdAtDepth24ChangesNothing
  intro s hi hm hb hbpp
  have hexec : exec .palrd s = .next (succeed s) := palrd_trueColour hi hm (hbpp ▸ rfl)
  rw [hexec, succeed_eq_endsWell, endsWell, ← hb]

end Sys2Proof.Machine

/-! ## The pixels of `PXDEC`, its errors, and where `DECODE` stops

A decode is the file's rows arranged top-down (`decodePixels_eq_map`), and the rows are the pixels that `pixelOf` gives.
Each statement about `PXDEC` speaks of one of the two. -/

namespace Sys2Proof.Machine

variable {s : State}

/-! ### The rows of a file (R166 to R169, R179) -/

theorem paddedRowSize_bounds (rb : Nat) :
    paddedRowSize rb % 4 = 0 ∧ rb ≤ paddedRowSize rb ∧ paddedRowSize rb < rb + 4 := by
  rw [paddedRowSize]
  omega

/-- Settles O27: rounding up to a multiple of 4, 2 and 8, and the formula at the source's three figures. -/
theorem rowSizesFollowTheFormula : Obligations.RowSizesFollowTheFormula := by
  unfold Obligations.RowSizesFollowTheFormula
  refine ⟨paddedRowSize_bounds, fun w => ⟨rfl, rfl, ?_, ?_⟩, by decide, by decide, by decide⟩
  · rw [rowBytes]; omega
  · rw [rowBytes]; omega

section
variable {cap : Capacity} {d : Depth} {m : Metadata} {pal : List RGB} {buf buf' : List Byte} {e : Raise}

/-- The rows in file order: the extent test, the capacity test, then the pixels (R169, R179). -/
def fileRows (cap : Capacity) (d : Depth) (m : Metadata) (pal : List RGB) (buf : List Byte) :
    Except Raise (List (List RGB)) :=
  if buf.length < m.pixoff.toNat + heightOf m * scanline d m then .error ⟨.truncatedData, 2⟩
  else if !fits cap (widthOf m * heightOf m) then .error ⟨.capacityExceeded, 2⟩
  else collect (decodeRow d m pal buf) (List.range (heightOf m))

/-- The grid of rows given in file order (R178). -/
def gridOfRows (m : Metadata) (rows : List (List RGB)) : Grid := ⟨widthOf m, heightOf m, topDown m rows⟩

/-- The scan direction concerns the arrangement of the rows only, never the rows (R178). -/
theorem decodePixels_eq_map : decodePixels cap d m pal buf = (fileRows cap d m pal buf).map (gridOfRows m) := by
  simp only [decodePixels, fileRows]
  split
  · rfl
  · split
    · rfl
    · cases collect (decodeRow d m pal buf) (List.range (heightOf m)) <;> rfl

theorem decodePixels_of_fileRows_error (h : fileRows cap d m pal buf = .error e) :
    decodePixels cap d m pal buf = .error e := by
  rw [decodePixels_eq_map, h]; rfl

theorem extentFits_iff (hd : depthOf m.bpp = some d) :
    extentFits m buf ↔ m.pixoff.toNat + heightOf m * scanline d m ≤ buf.length := by
  rw [extentFits, scanline_eq_storedRow hd]

theorem fileRows_truncated (hd : depthOf m.bpp = some d) (hext : ¬extentFits m buf) :
    fileRows cap d m pal buf = .error ⟨.truncatedData, 2⟩ :=
  if_pos (Nat.lt_of_not_le fun hle => hext ((extentFits_iff hd).2 hle))

theorem fileRows_inExtent (hlen : m.pixoff.toNat + heightOf m * scanline d m ≤ buf.length) :
    fileRows cap d m pal buf = if !fits cap (widthOf m * heightOf m) then .error ⟨.capacityExceeded, 2⟩
      else collect (decodeRow d m pal buf) (List.range (heightOf m)) := if_neg (Nat.not_lt.2 hlen)

theorem fileRows_overCapacity (hd : depthOf m.bpp = some d) (hext : extentFits m buf)
    (hcap : fits cap (widthOf m * heightOf m) = false) : fileRows cap d m pal buf = .error ⟨.capacityExceeded, 2⟩ := by
  rw [fileRows_inExtent ((extentFits_iff hd).1 hext), hcap]; rfl

theorem fileRows_inside (hlen : m.pixoff.toNat + heightOf m * scanline d m ≤ buf.length)
    (hcap : fits cap (widthOf m * heightOf m) = true) :
    fileRows cap d m pal buf = collect (decodeRow d m pal buf) (List.range (heightOf m)) := by
  rw [fileRows_inExtent hlen, hcap]; rfl

/-- Rows that could be decoded are as many and as long as the header says (R143). -/
theorem fileRows_ok {rows : List (List RGB)} (h : fileRows cap d m pal buf = .ok rows) :
    rows.length = heightOf m ∧ ∀ r ∈ rows, r.length = widthOf m := by
  have hg : decodePixels cap d m pal buf = .ok (gridOfRows m rows) := by rw [decodePixels_eq_map, h]; rfl
  obtain ⟨hlen, hcap, rows', hrows, hcount, hrow, -⟩ := decodePixels_ok hg
  obtain rfl : rows = rows' := Except.ok.inj (h.symm.trans ((fileRows_inside hlen hcap).trans hrows))
  exact ⟨hcount, hrow⟩

/-! ### Rows top-down (R178, R181) -/

theorem storedRowOf_lt {h y : Nat} (topdown : Bool) (hy : y < h) : storedRowOf topdown h y < h := by
  rw [storedRowOf]
  split <;> omega

/-- Reversing the rows twice leaves them. -/
theorem storedRowOf_storedRowOf {h y : Nat} (topdown : Bool) (hy : y < h) :
    storedRowOf topdown h (storedRowOf topdown h y) = y := by
  cases topdown with
  | true => rfl
  | false =>
    simp only [storedRowOf, Bool.false_eq_true, if_false]
    omega

theorem topDown_row {rows : List (List RGB)} {n : Nat} (hrow : ∀ r ∈ rows, r.length = n) {x y : Nat} (hx : x < n)
    (hy : y < rows.length) :
    (topDown m rows)[y * n + x]? = (rows[storedRowOf m.topdown rows.length y]?).bind (·[x]?) := by
  cases htop : m.topdown with
  | true => simp only [topDown, htop, if_true, flatten_getElem? hrow y x hx, storedRowOf]
  | false =>
    have hrow' : ∀ r ∈ rows.reverse, r.length = n := fun r hr => hrow r (List.mem_reverse.1 hr)
    simp only [topDown, htop, Bool.false_eq_true, if_false, flatten_getElem? hrow' y x hx, List.getElem?_reverse hy,
      storedRowOf]

/-- Row `y` of the grid is the file row it comes from. -/
theorem gridRow_gridOfRows {rows : List (List RGB)} (hcount : rows.length = heightOf m)
    (hrow : ∀ r ∈ rows, r.length = widthOf m) {y : Nat} (hy : y < heightOf m) :
    some (gridRow (gridOfRows m rows) y) = rows[storedRowOf m.topdown (heightOf m) y]? := by
  rw [← hcount] at hy ⊢
  have hlt := storedRowOf_lt m.topdown hy
  have hwidth := hrow _ (List.getElem_mem hlt)
  rw [List.getElem?_eq_getElem hlt]
  refine congrArg some (List.ext_getElem ?_ fun x hx _ => ?_)
  · simpa [gridRow, gridOfRows] using hwidth.symm
  · have hxw : x < widthOf m := by simpa [gridRow, gridOfRows] using hx
    simp [gridRow, gridOfRows, pixelAt, topDown_row hrow hxw hy, hlt, hwidth, hxw]

/-- The same rows arranged in both directions: each grid is the other one upside down. -/
theorem gridRow_flipped {rows : List (List RGB)} (hcount : rows.length = heightOf m)
    (hrow : ∀ r ∈ rows, r.length = widthOf m) {y : Nat} (hy : y < heightOf m) :
    gridRow (gridOfRows { m with topdown := true } rows) y =
      gridRow (gridOfRows { m with topdown := false } rows) (heightOf m - 1 - y) := by
  have hdown := gridRow_gridOfRows (m := { m with topdown := true }) hcount hrow hy
  have hup := gridRow_gridOfRows (m := { m with topdown := false }) hcount hrow (storedRowOf_lt false hy)
  exact Option.some.inj <| hdown.trans <|
    (congrArg (rows[·]?) (storedRowOf_storedRowOf false hy).symm).trans hup.symm

end

/-- Settles O32: both directions arrange the same rows, and every error comes from the rows. -/
theorem scanDirectionReversesRows : Obligations.ScanDirectionReversesRows := by
  unfold Obligations.ScanDirectionReversesRows
  intro cap d m pal buf
  have heq (down : Bool) : decodePixels cap d { m with topdown := down } pal buf =
    (fileRows cap d m pal buf).map (gridOfRows { m with topdown := down }) := decodePixels_eq_map
  rw [heq, heq]
  cases hrows : fileRows cap d m pal buf with
  | error e => exact ⟨nofun, fun _ he => he⟩
  | ok rows =>
    obtain ⟨hcount, hrow⟩ := fileRows_ok hrows
    refine ⟨?_, nofun⟩
    rintro gp ⟨⟩
    exact ⟨_, rfl, rfl, rfl, fun y hy => gridRow_flipped hcount hrow hy⟩

/-! ### What a pixel looks at (R171 to R177) -/

theorem index4_eq (buf : List Byte) (b x : Nat) : index4 buf b x = storedIndex 4 buf b x := by
  have hhigh (v : Byte) : (v.extractLsb' 4 4).toNat = v.toNat / 16 := by
    rw [BitVec.extractLsb'_toNat, Nat.shiftRight_eq_div_pow]
    exact Nat.mod_eq_of_lt (by omega)
  have hlow (v : Byte) : (v.extractLsb' 0 4).toNat = v.toNat % 16 := BitVec.extractLsb'_toNat ..
  simp only [index4, hhigh, hlow]
  rfl

theorem index1_eq (buf : List Byte) (b x : Nat) : index1 buf b x = storedIndex 1 buf b x := by
  rw [index1, BitVec.getLsbD, Nat.toNat_testBit]
  rfl

section
variable {d : Depth} {m : Metadata} {pal : List RGB} {buf buf' : List Byte}

/-- At depth 8, 4 or 1 a pixel is the palette's entry at its index (R172 to R175). -/
theorem pixelOf_indexed (hd : depthOf m.bpp = some d) (hx : indexed m = true) (b x : Nat) :
    pixelOf d buf pal b x = lookup pal (storedIndex m.bpp.toNat buf b x) := by
  rcases depthOf_cases hd with ⟨hb, rfl⟩ | ⟨hb, rfl⟩ | ⟨hb, rfl⟩ | ⟨hb, rfl⟩
  · exact absurd rfl ((indexed_iff hd).1 hx)
  · rw [hb]; rfl
  · rw [hb]; exact congrArg (lookup pal) (index4_eq buf b x)
  · rw [hb]; exact congrArg (lookup pal) (index1_eq buf b x)

/-- A decode looks at the file's length and its pixels. -/
theorem decodePixels_congr {cap : Capacity} (hlen : buf.length = buf'.length)
    (h : ∀ r < heightOf m, ∀ x < widthOf m,
      pixelOf d buf pal (rowOffset d m r) x = pixelOf d buf' pal (rowOffset d m r) x) :
    decodePixels cap d m pal buf = decodePixels cap d m pal buf' := by
  have hrows : collect (decodeRow d m pal buf) (List.range (heightOf m)) =
      collect (decodeRow d m pal buf') (List.range (heightOf m)) :=
    collect_congr fun r hr => collect_congr fun x hx => h r (List.mem_range.1 hr) x (List.mem_range.1 hx)
  rw [decodePixels, decodePixels, hlen, hrows]

end

/-- At depth 24 a pixel is the triple of its column (R171). -/
theorem depth_trueColour {m : Metadata} {d : Depth} (hd : depthOf m.bpp = some d) (hx : ¬indexed m = true) :
    d = .d24 ∧ m.bpp.toNat = 24 := by
  rcases depthOf_cases hd with ⟨hb, rfl⟩ | ⟨hb, rfl⟩ | ⟨hb, rfl⟩ | ⟨hb, rfl⟩
  · exact ⟨rfl, congrArg BitVec.toNat hb⟩
  all_goals exact absurd ((indexed_iff hd).2 nofun) hx

/-- Settles O31: at depth 24 a pixel is its triple, at the others its index looked up, and nothing else is read. -/
theorem paddingHasNoEffect : Obligations.PaddingHasNoEffect := by
  unfold Obligations.PaddingHasNoEffect
  intro cap d m pal buf buf' hlen hd hagree
  rw [← scanline_eq_storedRow hd] at hagree
  refine decodePixels_congr hlen fun r hr x hx => ?_
  have h := hagree r hr x hx
  by_cases hi : indexed m = true
  · have h24 : ¬m.bpp.toNat = 24 := fun h24 => by simp [indexed, h24] at hi
    rw [pixelOf_indexed hd hi, pixelOf_indexed hd hi]
    exact congrArg (lookup pal) ((if_neg h24).mp h)
  · obtain ⟨rfl, h24⟩ := depth_trueColour hd hi
    exact congrArg Except.ok (bgrAt_congr ((if_pos h24).mp h))

/-! ### A grid given pixel by pixel (R166, R178) -/

/-- The pixels of a grid in memory order (R36). -/
def pixelRows (w h : Nat) (pixel : Nat → Nat → RGB) : List RGB :=
  (List.range h).flatMap fun y => (List.range w).map (pixel y)

section
variable {w h : Nat} {pixel : Nat → Nat → RGB}

theorem pixelRows_width : ∀ r ∈ (List.range h).map fun y => (List.range w).map (pixel y), r.length = w := by simp

theorem pixelRows_length : (pixelRows w h pixel).length = w * h := by
  rw [pixelRows, List.flatMap, flatten_length pixelRows_width, List.length_map, List.length_range, Nat.mul_comm]

theorem pixelRows_getElem? {x y : Nat} (hx : x < w) (hy : y < h) :
    (pixelRows w h pixel)[y * w + x]? = some (pixel y x) := by
  rw [pixelRows, List.flatMap, flatten_getElem? pixelRows_width y x hx]
  simp [hx, hy]

end

section
variable {cap : Capacity} {d : Depth} {m : Metadata} {pal : List RGB} {buf : List Byte}

/-- File row `r` of a grid whose pixels are given from the visual top (R178). -/
def fileRowOf (m : Metadata) (pixel : Nat → Nat → RGB) (r : Nat) : List RGB :=
  (List.range (widthOf m)).map (pixel (storedRowOf m.topdown (heightOf m) r))

theorem topDown_fileRowOf (m : Metadata) (pixel : Nat → Nat → RGB) :
    topDown m ((List.range (heightOf m)).map (fileRowOf m pixel)) = pixelRows (widthOf m) (heightOf m) pixel := by
  rw [topDown_map, pixelRows, List.flatMap, List.flatMap]
  refine congrArg List.flatten (List.map_congr_left fun y hy => ?_)
  rw [fileRowOf, storedRowOf_storedRowOf m.topdown (List.mem_range.1 hy)]

/-- Where every pixel of the grid is decoded, so is the grid. -/
theorem decodePixels_of_pixels {pixel : Nat → Nat → RGB} (hd : depthOf m.bpp = some d) (hext : extentFits m buf)
    (hcap : fits cap (widthOf m * heightOf m) = true)
    (hpixel : ∀ y < heightOf m, ∀ x < widthOf m, pixelOf d buf pal (storedAt m y) x = .ok (pixel y x)) :
    decodePixels cap d m pal buf = .ok ⟨widthOf m, heightOf m, pixelRows (widthOf m) (heightOf m) pixel⟩ := by
  have hrow : ∀ r < heightOf m, decodeRow d m pal buf r = .ok (fileRowOf m pixel r) := by
    intro r hr
    have hat := storedAt_eq_rowOffset hd (storedRowOf m.topdown (heightOf m) r)
    rw [storedRowOf_storedRowOf _ hr] at hat
    refine collect_eq_ok_iff.2 ((List.map_congr_left fun x hx => ?_).trans List.map_map.symm)
    exact hat ▸ hpixel _ (storedRowOf_lt _ hr) x (List.mem_range.1 hx)
  have hrows : fileRows cap d m pal buf = .ok ((List.range (heightOf m)).map (fileRowOf m pixel)) := by
    rw [fileRows_inside ((extentFits_iff hd).1 hext) hcap, collect_eq_ok_iff, List.map_map]
    exact List.map_congr_left fun r hr => hrow r (List.mem_range.1 hr)
  rw [decodePixels_eq_map, hrows, ← topDown_fileRowOf]
  rfl

end

/-! ### `PXDEC` and the rows of the opcode table that share its word (R95, R170) -/

/-- The model's reading (log 10): each of the rows has the effect of `PXDEC`. -/
theorem exec_pxdecRow {i : Instr} (h : i ∈ pxdecRows) (s : State) : exec i s = pxdecCommand s := by
  simp only [pxdecRows, List.mem_cons, List.not_mem_nil, or_false] at h
  rcases h with rfl | rfl | rfl | rfl | rfl <;> rfl

/-- `PXDEC` finds its inputs: the flags of R99, an admitted depth, the palette that depth consults and the file. -/
structure PxdecInputs (s : State) (d : Depth) (pal : List RGB) (buf : List Byte) : Prop where
  ibufValid : s.status.ibufValid = true
  metaValid : s.status.metaValid = true
  palValid : indexed s.imeta = true → s.status.palValid = true
  depth : depthOf s.imeta.bpp = some d
  palette : paletteFor d s = .ok pal
  file : fileOf s = .ok buf

theorem depthOf_24 {m : Metadata} (h : m.bpp.toNat = 24) : depthOf m.bpp = some .d24 := by
  rw [BitVec.eq_of_toNat_eq (y := 24#16) h]; rfl

section
variable {i : Instr} {d : Depth} {pal : List RGB} {buf : List Byte}

theorem pxdecInputs_trueColour (hi : s.status.ibufValid = true) (hm : s.status.metaValid = true)
    (hbpp : s.imeta.bpp.toNat = 24) (hf : fileOf s = .ok buf) : PxdecInputs s .d24 [] buf where
  ibufValid := hi
  metaValid := hm
  palValid hx := absurd rfl ((indexed_iff (depthOf_24 hbpp)).1 hx)
  depth := depthOf_24 hbpp
  palette := rfl
  file := hf

theorem pxdecInputs_indexed (hi : s.status.ibufValid = true) (hm : s.status.metaValid = true)
    (hp : s.status.palValid = true) (hbpp : s.imeta.bpp.toNat ∈ [8, 4, 1]) (hpal : paletteOf s = .ok pal)
    (hf : fileOf s = .ok buf) : indexed s.imeta = true ∧ ∃ d, PxdecInputs s d pal buf := by
  obtain ⟨hx, d, hd⟩ := depthOf_indexed (List.mem_reverse.1 hbpp)
  exact ⟨hx, d, hi, hm, fun _ => hp, hd, (paletteFor_of_ne ((indexed_iff hd).1 hx) s).trans hpal, hf⟩

theorem PxdecInputs.exec_eq (h : PxdecInputs s d pal buf) (hi : i ∈ pxdecRows) :
    exec i s = .next (pxdecEnd (decodePixels s.cfg.gridCap d s.imeta pal buf) s) :=
  (exec_pxdecRow hi s).trans (pxdec_eq h.ibufValid h.metaValid h.palValid h.depth h.palette h.file)

/-- `PXDEC` where every pixel of the grid is decoded (R166). -/
theorem PxdecInputs.completes {pixel : Nat → Nat → RGB} (h : PxdecInputs s d pal buf) (hi : i ∈ pxdecRows)
    (hext : extentFits s.imeta buf) (hcap : fits s.cfg.gridCap (widthOf s.imeta * heightOf s.imeta) = true)
    (hpixel : ∀ y < heightOf s.imeta, ∀ x < widthOf s.imeta,
      pixelOf d buf pal (storedAt s.imeta y) x = .ok (pixel y x)) :
    ∃ t, exec i s = .next t ∧
      (∀ y < heightOf s.imeta, ∀ x < widthOf s.imeta,
        Memory.read t.ogrid (y * widthOf s.imeta + x) = some (pixel y x)) ∧
      (∀ a, widthOf s.imeta * heightOf s.imeta ≤ a → Memory.read t.ogrid a = Memory.read s.ogrid a) ∧
      t = endsWell
        { s.status with ogridValid := true, tgridValid := false, rgridValid := false, obufValid := false }
        { s with ogrid := t.ogrid, ogW := widthOf s.imeta, ogH := heightOf s.imeta } := by
  have hexec := h.exec_eq hi
  rw [decodePixels_of_pixels h.depth hext hcap hpixel, pxdecEnd_ok] at hexec
  exact ⟨_, hexec, fun y hy x hx => read_stored s.ogrid (pixelRows_getElem? hx hy),
    fun a ha => read_writeAll_beyond s.ogrid _ (pixelRows_length ▸ ha), rfl⟩

/-- `PXDEC` where the decoder rejects the file (R166, R272). -/
theorem PxdecInputs.rejects {e : Raise} (h : PxdecInputs s d pal buf) (hi : i ∈ pxdecRows)
    (he : fileRows s.cfg.gridCap d s.imeta pal buf = .error e) :
    exec i s = .next (endsInError (errorCode e.kind) 3 e.info
      { s.status with ogridValid := false, tgridValid := false, rgridValid := false, obufValid := false } s) := by
  rw [h.exec_eq hi, decodePixels_of_fileRows_error he, pxdecEnd_error]

end

/-- Settles O28: a triple of the file is always decoded. -/
theorem pxdecDecodesTrueColour : Obligations.PxdecDecodesTrueColour := by
  unfold Obligations.PxdecDecodesTrueColour
  intro i s buf hrow hi hm hbpp hf hext hcap
  exact (pxdecInputs_trueColour hi hm hbpp hf).completes hrow hext hcap fun _ _ _ _ => rfl

/-- Settles O29: an index inside the palette is always decoded. -/
theorem pxdecDecodesIndexedColour : Obligations.PxdecDecodesIndexedColour := by
  unfold Obligations.PxdecDecodesIndexedColour
  intro i s buf pal hrow hi hm hp hbpp hf hpal hext hcap hindex
  obtain ⟨hx, d, hin⟩ := pxdecInputs_indexed hi hm hp hbpp hpal hf
  have hentry : ∀ y < heightOf s.imeta, ∀ x < widthOf s.imeta,
      pal[storedIndex s.imeta.bpp.toNat buf (storedAt s.imeta y) x]? =
        some (pal.getD (storedIndex s.imeta.bpp.toNat buf (storedAt s.imeta y) x) RGB.black) := by
    intro y hy x hx
    simp [hindex y hy x hx]
  obtain ⟨t, hexec, hread, hrest⟩ := hin.completes hrow hext hcap fun y hy x hlt =>
    (pixelOf_indexed hin.depth hx _ x).trans (lookup_ok_iff.2 (hentry y hy x hlt))
  exact ⟨t, hexec, fun y hy x hlt => (hread y hy x hlt).trans (hentry y hy x hlt).symm, hrest⟩

/-! ### The first error of a list -/

theorem collect_ok_of_forall {α β ε : Type} {f : α → Except ε β} {xs : List α} (h : ∀ x ∈ xs, ∃ z, f x = .ok z) :
    ∃ zs, collect f xs = .ok zs := by
  cases hc : collect f xs with
  | ok zs => exact ⟨zs, rfl⟩
  | error e =>
    obtain ⟨before, x, after, rfl, -, he⟩ := collect_eq_error_iff.1 hc
    obtain ⟨z, hz⟩ := h x (by simp)
    exact absurd (hz.symm.trans he) nofun

theorem collect_range_error {β ε : Type} {f : Nat → Except ε β} {k n : Nat} {e : ε} (hk : k < n)
    (hbefore : ∀ j < k, ∃ z, f j = .ok z) (he : f k = .error e) : collect f (List.range n) = .error e := by
  refine collect_eq_error_iff.2 ⟨List.range k, k, (List.range (n - k - 1)).map (k + 1 + ·), ?_,
    fun j hj => hbefore j (List.mem_range.1 hj), he⟩
  rw [← List.singleton_append, ← List.append_assoc, ← List.range_succ, ← List.range_add]
  congr 1
  omega

section
variable {d : Depth} {m : Metadata} {pal : List RGB} {buf : List Byte} {r : Nat}

theorem lookup_inside {k : Nat} (h : k < pal.length) : lookup pal k = .ok pal[k] :=
  lookup_ok_iff.2 (List.getElem?_eq_getElem h)

/-- A pixel whose index lies inside the palette is decoded. -/
theorem pixelOf_inside (hd : depthOf m.bpp = some d) (hx : indexed m = true) {b x : Nat}
    (h : storedIndex m.bpp.toNat buf b x < pal.length) : ∃ p, pixelOf d buf pal b x = .ok p :=
  ⟨_, (pixelOf_indexed hd hx b x).trans (lookup_inside h)⟩

theorem decodeRow_inside (hd : depthOf m.bpp = some d) (hx : indexed m = true)
    (h : ∀ x < widthOf m, storedIndex m.bpp.toNat buf (rowOffset d m r) x < pal.length) :
    ∃ row, decodeRow d m pal buf r = .ok row :=
  collect_ok_of_forall fun x hlt => pixelOf_inside hd hx (h x (List.mem_range.1 hlt))

/-- The first index of a row that is not below the palette's length is the row's error (R175, R176). -/
theorem decodeRow_badIndex (hd : depthOf m.bpp = some d) (hx : indexed m = true) {x : Nat} (hlt : x < widthOf m)
    (hbefore : ∀ x' < x, storedIndex m.bpp.toNat buf (rowOffset d m r) x' < pal.length)
    (hbad : pal.length ≤ storedIndex m.bpp.toNat buf (rowOffset d m r) x) :
    decodeRow d m pal buf r =
      .error ⟨.paletteIndexOutOfRange, storedIndex m.bpp.toNat buf (rowOffset d m r) x⟩ :=
  collect_range_error hlt (fun x' hx' => pixelOf_inside hd hx (hbefore x' hx'))
    ((pixelOf_indexed hd hx _ x).trans (lookup_error_iff.2 ⟨hbad, rfl⟩))

/-- The first bad index in file order is the error of the rows. -/
theorem fileRows_badIndex {cap : Capacity} (hd : depthOf m.bpp = some d) (hx : indexed m = true)
    (hext : extentFits m buf) (hcap : fits cap (widthOf m * heightOf m) = true) {x : Nat} (hr : r < heightOf m)
    (hlt : x < widthOf m) (hbad : pal.length ≤ storedIndex m.bpp.toNat buf (rowOffset d m r) x)
    (hbefore : ∀ r' x', x' < widthOf m → (r' < r ∨ (r' = r ∧ x' < x)) →
      storedIndex m.bpp.toNat buf (rowOffset d m r') x' < pal.length) :
    fileRows cap d m pal buf =
      .error ⟨.paletteIndexOutOfRange, storedIndex m.bpp.toNat buf (rowOffset d m r) x⟩ := by
  rw [fileRows_inside ((extentFits_iff hd).1 hext) hcap]
  exact collect_range_error hr
    (fun r' hr' => decodeRow_inside hd hx fun x' hx' => hbefore r' x' hx' (.inl hr'))
    (decodeRow_badIndex hd hx hlt (fun x' hx' => hbefore r x' (by omega) (.inr ⟨rfl, hx'⟩)) hbad)

end

theorem indexed_iff_le {m : Metadata} : indexed m = true ↔ m.bpp.toNat ≤ 8 := decide_eq_true_iff

/-- `PXDEC` finds its inputs at every admitted depth (R170), and what it consults below depth 24 is PAL. -/
theorem pxdecInputs_admitted {pal : List RGB} {buf : List Byte} (hi : s.status.ibufValid = true)
    (hm : s.status.metaValid = true) (hbpp : s.imeta.bpp.toNat ∈ [24, 8, 4, 1]) (hf : fileOf s = .ok buf)
    (hpal : s.imeta.bpp.toNat ≤ 8 → s.status.palValid = true ∧ paletteOf s = .ok pal) :
    ∃ d pal', PxdecInputs s d pal' buf ∧ (indexed s.imeta = true → pal' = pal) := by
  rcases List.mem_cons.1 hbpp with h24 | hbpp
  · have hin := pxdecInputs_trueColour hi hm h24 hf
    exact ⟨_, _, hin, fun hx => absurd rfl ((indexed_iff hin.depth).1 hx)⟩
  · obtain ⟨hp, hpalette⟩ := hpal (by simp at hbpp; omega)
    obtain ⟨-, d, hin⟩ := pxdecInputs_indexed hi hm hp hbpp hpalette hf
    exact ⟨d, pal, hin, fun _ => rfl⟩

/-- Settles O30: each test has its error, and where both pass so has the first bad index in file order. -/
theorem pxdecRejectsInOrder : Obligations.PxdecRejectsInOrder := by
  unfold Obligations.PxdecRejectsInOrder
  intro i s buf pal hrow hi hm hbpp hf hpal
  obtain ⟨d, pal', hin, hsame⟩ := pxdecInputs_admitted hi hm hbpp hf hpal
  rw [← scanline_eq_storedRow hin.depth]
  refine ⟨fun hext => ?_, fun hext hcap => ?_, fun hext hcap hle r hr x hlt hbad hbefore => ?_⟩
  · exact hin.rejects hrow (fileRows_truncated hin.depth hext)
  · exact hin.rejects hrow (fileRows_overCapacity hin.depth hext hcap)
  · have hx := indexed_iff_le.2 hle
    obtain rfl := hsame hx
    exact hin.rejects hrow (fileRows_badIndex hin.depth hx hext hcap hr hlt hbad hbefore)

/-! ### Where `DECODE` stops (R186) -/

theorem unlessError_success {k : State → Result} (h : s.err.code = 0) : unlessError k s = k s := if_pos h

theorem unlessError_error {k : State → Result} (h : s.err.code ≠ 0) : unlessError k s = .next s := if_neg h

/-- What `DECODE` does after a header that was accepted. -/
def afterHeader (u : State) : Result :=
  if indexed u.imeta then andThen (palrdCommand u) (unlessError pxdecCommand) else pxdecCommand u

theorem decodeCommand_eq (s : State) : decodeCommand s = andThen (hparseCommand s) (unlessError afterHeader) := rfl

theorem afterHeader_trueColour (h : 8 < s.imeta.bpp.toNat) : afterHeader s = pxdecCommand s :=
  if_neg fun hx => Nat.not_le.2 h (indexed_iff_le.1 hx)

theorem afterHeader_indexed {t : State} (h : s.imeta.bpp.toNat ≤ 8) (ht : palrdCommand s = .next t) :
    afterHeader s = unlessError pxdecCommand t := by
  rw [afterHeader, if_pos (indexed_iff_le.2 h), ht]
  rfl

/-- Settles O34: `DECODE` goes on from the state a part leaves unless that part ended in error. -/
theorem decodeStopsAtTheFirstError : Obligations.DecodeStopsAtTheFirstError := by
  unfold Obligations.DecodeStopsAtTheFirstError
  intro s s1 hparse
  have hdecode : exec .decode s = unlessError afterHeader s1 :=
    (decodeCommand_eq s).trans (congrArg (andThen · (unlessError afterHeader)) hparse)
  rw [hdecode]
  refine ⟨unlessError_error, fun hc hgt => ?_, fun hc hle s2 hpalrd => ?_⟩
  · exact (unlessError_success hc).trans (afterHeader_trueColour hgt)
  · rw [unlessError_success hc, afterHeader_indexed hle hpalrd]
    exact ⟨unlessError_error, unlessError_success⟩

end Sys2Proof.Machine

/-! ## The pixel transformer: its numerics, and what `XFORM` does

Of binary64 one thing is used: rounding moves a number by a part in `2 ^ 52` at most. Two roundings move the product
of a command word's operands by less than a hundredth, which is the least distance of a quotient by 100 from an
integer that it is not. -/

namespace Sys2Proof.Machine

variable {s : State}

/-! ### Clamping and truncation (R204, R206) -/

theorem clampChannel_toNat (v : Int) : ((clampChannel v).toNat : Int) = min 255 (max 0 v) := by
  rw [clampChannel, BitVec.toNat_ofNat, Nat.mod_eq_of_lt (by omega)]
  omega

theorem clampChannel_of_nonpos {v : Int} (hv : v ≤ 0) : clampChannel v = 0 := by
  rw [clampChannel, max_eq_left hv]
  rfl

theorem clampChannel_natCast {n : Nat} (hn : n < 256) : clampChannel n = BitVec.ofNat 8 n := by
  rw [clampChannel, show (min 255 (max 0 (n : Int))).toNat = n by omega]

/-- A result that is one less is clamped to the same channel or to the one below. -/
theorem clampChannel_succ (v : Int) : clampChannel v = clampChannel (v + 1) ∨
    (clampChannel v).toNat + 1 = (clampChannel (v + 1)).toNat := by
  have hv := clampChannel_toNat v
  have hv' := clampChannel_toNat (v + 1)
  rw [← BitVec.toNat_inj]
  omega

theorem scaledExact_of_nonneg (c : Nat) {bright : Int} (hb : 0 ≤ bright) :
    scaledExact c bright = (c : Int) * bright / 100 :=
  Int.tdiv_eq_ediv_of_nonneg (mul_nonneg (Int.natCast_nonneg c) hb)

theorem scaledExact_nonpos (c : Nat) {bright : Int} (hb : bright ≤ 0) : scaledExact c bright ≤ 0 := by
  have hproduct : (c : Int) * bright ≤ 0 := mul_nonpos_of_nonneg_of_nonpos (Int.natCast_nonneg c) hb
  rw [scaledExact, ← Int.neg_nonneg, ← Int.neg_tdiv]
  exact Int.tdiv_nonneg (Int.neg_nonneg.2 hproduct) (by decide)

/-! ### Rounding to binary64 (R205) -/

/-- The value of a double without its sign. -/
def Double.magnitude (x : Double) : ℚ := x.mant * 2 ^ x.up / 2 ^ x.down

theorem truncDouble_eq (x : Double) : truncDouble x = if x.neg then -(⌊x.magnitude⌋₊ : Int) else ⌊x.magnitude⌋₊ := by
  have hfloor : ⌊x.magnitude⌋₊ = x.mant * 2 ^ x.up / 2 ^ x.down := by
    rw [Double.magnitude, ← Nat.floor_div_eq_div (K := ℚ)]
    push_cast
    rfl
  rw [truncDouble, hfloor]

theorem truncDouble_nonpos {x : Double} (hneg : x.neg = true) : truncDouble x ≤ 0 := by
  rw [truncDouble_eq, if_pos hneg]
  omega

/-- The nearest integer is half a divisor away at most. -/
theorem divNearestEven_close (n : Nat) {d : Nat} (hd : 0 < d) :
    |((divNearestEven n d * d : Nat) : ℚ) - n| ≤ d / 2 := by
  have hdiv : d * (n / d) + n % d = n := Nat.div_add_mod n d
  have hmod : n % d < d := Nat.mod_lt n hd
  have hnat : 2 * n ≤ 2 * (divNearestEven n d * d) + d ∧ 2 * (divNearestEven n d * d) ≤ 2 * n + d := by
    rw [divNearestEven, Nat.mul_comm _ d]
    split
    · rw [Nat.mul_succ]
      omega
    · split
      · rcases Nat.mod_two_eq_zero_or_one (n / d) with h | h <;> rw [h]
        · rw [Nat.add_zero]
          omega
        · rw [Nat.mul_succ]
          omega
      · omega
  obtain ⟨hlow, hhigh⟩ := hnat
  have hlow : (2 : ℚ) * n ≤ 2 * (divNearestEven n d * d : Nat) + d := by exact_mod_cast hlow
  have hhigh : (2 : ℚ) * (divNearestEven n d * d : Nat) ≤ 2 * n + d := by exact_mod_cast hhigh
  rw [abs_le]
  constructor <;> linarith

@[simp] theorem roundDouble_neg (neg : Bool) (n d : Nat) : (roundDouble neg n d).neg = neg := by
  rw [roundDouble]
  split <;> rfl

/-- A rounding keeps the nearest integer to the quotient, shifted left by 52 bits at least. -/
theorem roundDouble_shape (neg : Bool) {n : Nat} (hn : n ≠ 0) (d : Nat) : ∃ k : Int, 52 + (d.log2 : Int) - n.log2 ≤ k ∧
    roundDouble neg n d =
      ⟨neg, divNearestEven (n * 2 ^ k.toNat) (d * 2 ^ (-k).toNat), (-k).toNat, k.toNat⟩ := by
  rw [roundDouble, if_neg hn]
  refine ⟨_, ?_, rfl⟩
  split <;> omega

/-- The shifted quotient has 52 bits at least. -/
theorem shifted_quotient_large {n d : Nat} (hn : n ≠ 0) {k : Int} (hk : 52 + (d.log2 : Int) - n.log2 ≤ k) :
    2 ^ 51 * (d * 2 ^ (-k).toNat) ≤ n * 2 ^ k.toNat :=
  calc 2 ^ 51 * (d * 2 ^ (-k).toNat)
      ≤ 2 ^ 51 * (2 ^ (d.log2 + 1) * 2 ^ (-k).toNat) := by gcongr; exact Nat.lt_log2_self.le
    _ = 2 ^ (51 + (d.log2 + 1 + (-k).toNat)) := by rw [← pow_add, ← pow_add]
    _ ≤ 2 ^ (n.log2 + k.toNat) := Nat.pow_le_pow_right (by decide) (by omega)
    _ = 2 ^ n.log2 * 2 ^ k.toNat := pow_add ..
    _ ≤ n * 2 ^ k.toNat := by gcongr; exact Nat.log2_self_le hn

/-- Rounding moves a number by a part in `2 ^ 52` at most. -/
theorem roundDouble_close (neg : Bool) (n : Nat) {d : Nat} (hd : 0 < d) :
    |(roundDouble neg n d).magnitude - n / d| ≤ n / d / 2 ^ 52 := by
  rcases Nat.eq_zero_or_pos n with rfl | hn
  · simp [roundDouble, Double.magnitude]
  · obtain ⟨k, hk, hround⟩ := roundDouble_shape neg hn.ne' d
    have hlarge := shifted_quotient_large hn.ne' hk
    have hnear := divNearestEven_close (n * 2 ^ k.toNat) (d := d * 2 ^ (-k).toNat) (by positivity)
    rw [hround]
    generalize divNearestEven _ _ = m at hnear
    simp only [Double.magnitude]
    generalize k.toNat = down at *
    generalize (-k).toNat = up at *
    have hscale : (0 : ℚ) < d * 2 ^ down := by positivity
    have hlarge : (2 : ℚ) ^ 51 * (d * 2 ^ up) ≤ n * 2 ^ down := by exact_mod_cast hlarge
    push_cast at hnear
    calc |(m * 2 ^ up / 2 ^ down - n / d : ℚ)|
        = |(m * (d * 2 ^ up) - n * 2 ^ down : ℚ)| / (d * 2 ^ down) := by
          rw [← abs_of_pos hscale, ← abs_div]
          congr 1
          field_simp
      _ ≤ n * 2 ^ down / 2 ^ 52 / (d * 2 ^ down) := by
          gcongr
          linarith
      _ = n / d / 2 ^ 52 := by field_simp

/-! ### The brightness product under binary64 (R205, R211) -/

/-- The second rounding of the product: `RN(c * q)`. -/
def productDouble (c : Nat) (bright : Int) : Double :=
  roundDouble (factorDouble bright).neg (c * ((factorDouble bright).mant * 2 ^ (factorDouble bright).up))
    (2 ^ (factorDouble bright).down)

theorem scaledDouble_eq (c : Nat) (bright : Int) : scaledDouble c bright = truncDouble (productDouble c bright) := rfl

theorem productDouble_neg (c : Nat) (bright : Int) : (productDouble c bright).neg = decide (bright < 0) := by
  rw [productDouble, roundDouble_neg, factorDouble, roundDouble_neg]

theorem productDouble_close (c : Nat) (bright : Int) :
    |(productDouble c bright).magnitude - c * bright.natAbs / 100| ≤ c * bright.natAbs / 100 / 2 ^ 50 := by
  have hfactor : |(factorDouble bright).magnitude - bright.natAbs / 100| ≤ bright.natAbs / 100 / 2 ^ 52 := by
    exact_mod_cast roundDouble_close (decide (bright < 0)) bright.natAbs (d := 100) (by decide)
  have hproduct : |(productDouble c bright).magnitude - c * (factorDouble bright).magnitude| ≤
      c * (factorDouble bright).magnitude / 2 ^ 52 := by
    have := roundDouble_close (factorDouble bright).neg
      (c * ((factorDouble bright).mant * 2 ^ (factorDouble bright).up)) (d := 2 ^ (factorDouble bright).down)
      (by positivity)
    push_cast at this
    rwa [mul_div_assoc] at this
  generalize (productDouble c bright).magnitude = p at *
  generalize (factorDouble bright).magnitude = q at *
  have hscaled : |c * q - c * bright.natAbs / 100| ≤ c * bright.natAbs / 100 / 2 ^ 52 :=
    calc |c * q - c * bright.natAbs / 100|
        = c * |q - bright.natAbs / 100| := by rw [mul_div_assoc, ← mul_sub, abs_mul, Nat.abs_cast]
      _ ≤ c * (bright.natAbs / 100 / 2 ^ 52) := by gcongr
      _ = c * bright.natAbs / 100 / 2 ^ 52 := by rw [← mul_div_assoc, ← mul_div_assoc]
  have hnonneg : (0 : ℚ) ≤ c * bright.natAbs / 100 := by positivity
  rw [abs_le] at *
  constructor <;> linarith

/-- A number so close to a quotient by 100 has its integer part, or one less where the quotient is an integer. -/
theorem floor_near_hundredths {n : Nat} (hn : n < 2 ^ 23) {v : ℚ} (hv : |v - n / 100| ≤ n / 100 / 2 ^ 50) :
    ⌊v⌋₊ = n / 100 ∨ (⌊v⌋₊ + 1 = n / 100 ∧ n % 100 = 0) := by
  have hn : (n : ℚ) < 2 ^ 23 := by exact_mod_cast hn
  have hsplit : (n : ℚ) = 100 * (n / 100 : Nat) + (n % 100 : Nat) := by exact_mod_cast (Nat.div_add_mod n 100).symm
  have hrest : ((n % 100 : Nat) : ℚ) ≤ 99 := by exact_mod_cast Nat.le_of_lt_succ (Nat.mod_lt n (by decide))
  have hrest0 : (0 : ℚ) ≤ (n % 100 : Nat) := Nat.cast_nonneg _
  have hclose : |v - n / 100| < 1 / 100 := by linarith
  obtain ⟨hlow, hhigh⟩ := abs_lt.1 hclose
  have hle : ⌊v⌋₊ < n / 100 + 1 := (Nat.floor_lt' (Nat.succ_ne_zero _)).2 (by push_cast; linarith)
  by_cases hexact : n % 100 = 0
  · have hge : n / 100 < ⌊v⌋₊ + 2 := by
      have hfloor := Nat.lt_floor_add_one v
      have : ((n / 100 : Nat) : ℚ) < ⌊v⌋₊ + 2 := by linarith
      exact_mod_cast this
    omega
  · have hrest1 : (1 : ℚ) ≤ (n % 100 : Nat) := by exact_mod_cast Nat.one_le_iff_ne_zero.2 hexact
    have hge : n / 100 ≤ ⌊v⌋₊ := Nat.le_floor (by linarith)
    omega

/-- R211: a brightness not above 0 gives no positive product. -/
theorem scaledDouble_nonpos (c : Nat) {bright : Int} (hb : bright ≤ 0) : scaledDouble c bright ≤ 0 := by
  rcases Int.lt_or_eq_of_le hb with hneg | rfl
  · exact truncDouble_nonpos ((productDouble_neg c bright).trans (decide_eq_true hneg))
  · simp [scaledDouble, factorDouble, roundDouble, truncDouble]

/-- R205: binary64 gives the exact product, or one less where the exact quotient is an integer. -/
theorem scaledDouble_near {c : Nat} {bright : Int} (hb : 0 ≤ bright) (hlt : c * bright.natAbs < 2 ^ 23) :
    scaledDouble c bright = scaledExact c bright ∨
    (scaledDouble c bright + 1 = scaledExact c bright ∧ (c : Int) * bright % 100 = 0) := by
  obtain ⟨n, rfl⟩ := Int.eq_ofNat_of_zero_le hb
  have hclose := productDouble_close c n
  rw [Int.natAbs_natCast] at hlt hclose
  have hfloor : scaledDouble c n = ⌊(productDouble c n).magnitude⌋₊ := by
    rw [scaledDouble_eq, truncDouble_eq, productDouble_neg, decide_eq_false (Int.not_lt.2 hb)]
    rfl
  rw [hfloor, scaledExact_of_nonneg c hb]
  exact_mod_cast floor_near_hundredths hlt (by exact_mod_cast hclose)

/-! ### Scaling a channel -/

/-- Settles O37: the clamp's two bounds, and no product is above 0 where the brightness is not. -/
theorem scaleTruncatesThenClamps : Obligations.ScaleTruncatesThenClamps :=
  ⟨fun c bright => clampChannel_toNat (scaledExact c.toNat bright),
    fun c _ _ hb => clampChannel_of_nonpos (scaledDouble_nonpos c.toNat hb)⟩

/-- Settles O39: up to 0 both numerics give 0; above it the product under binary64 is exact or one less, and the clamp
keeps that. -/
theorem binary64IsExactOrOneLess : Obligations.Binary64IsExactOrOneLess := by
  unfold Obligations.Binary64IsExactOrOneLess
  intro c bright hfield
  obtain ⟨-, hmax⟩ : -32768 ≤ bright ∧ bright ≤ 32767 := of_decide_eq_true hfield
  simp only [scale]
  by_cases hb : bright ≤ 0
  · left
    rw [clampChannel_of_nonpos (scaledDouble_nonpos _ hb), clampChannel_of_nonpos (scaledExact_nonpos _ hb)]
  · have hlt : c.toNat * bright.natAbs < 2 ^ 23 := Nat.mul_lt_mul'' (c := 2 ^ 8) (d := 2 ^ 15) c.isLt (by omega)
    rcases scaledDouble_near (by omega) hlt with heq | ⟨hsucc, hmod⟩
    · left
      rw [heq]
    · rw [← hsucc]
      exact (clampChannel_succ _).imp_right (⟨·, hmod⟩)

/-- R205: the pairs of channel and brightness up to 100 on which binary64 gives one less. -/
def oneLessPairs : List (Nat × Nat) :=
  [(100, 29), (200, 29), (180, 35), (100, 57), (200, 57), (50, 58), (100, 58), (200, 58), (90, 70), (170, 70),
    (180, 70), (150, 82)]

theorem scale_of_oneLess : ∀ p ∈ oneLessPairs, (scale .binary64 (BitVec.ofNat 8 p.1) p.2).toNat =
    (scale .exact (BitVec.ofNat 8 p.1) p.2).toNat - 1 := by decide +kernel

/-- The channels whose product with a brightness is a multiple of 100 are the multiples of this one. -/
def channelStep (bright : Nat) : Nat := 100 / Nat.gcd 100 bright

theorem channelStep_dvd {c bright : Nat} (h : 100 ∣ c * bright) : channelStep bright ∣ c :=
  (Nat.div_dvd_iff_dvd_mul (Nat.gcd_dvd_left 100 bright) (Nat.gcd_pos_of_pos_left bright (by decide))).2
    (Nat.dvd_gcd_mul_iff_dvd_mul.2 (Nat.mul_comm c bright ▸ h))

/-- The products up to brightness 100 whose exact quotient is an integer, run under both numerics. -/
theorem scaledDouble_on_steps : ∀ bright < (101 : Nat), ∀ k < 3 * Nat.gcd 100 bright,
    scaledDouble (channelStep bright * k) bright = scaledExact (channelStep bright * k) bright ∨
    (channelStep bright * k, bright) ∈ oneLessPairs := by decide +kernel

theorem scaledDouble_of_integer {c bright : Nat} (hc : c < 256) (hb : bright ≤ 100) (h : 100 ∣ c * bright) :
    scaledDouble c bright = scaledExact c bright ∨ (c, bright) ∈ oneLessPairs := by
  obtain ⟨k, rfl⟩ := channelStep_dvd h
  have hgcd : channelStep bright * Nat.gcd 100 bright = 100 := Nat.div_mul_cancel (Nat.gcd_dvd_left 100 bright)
  refine scaledDouble_on_steps bright (Nat.lt_succ_of_le hb) k (Nat.lt_of_not_le fun hk => ?_)
  have := Nat.mul_le_mul_left (channelStep bright) hk
  rw [Nat.mul_left_comm, hgcd] at this
  omega

/-- Settles O38: the numerics can differ where the exact quotient is an integer only, and there each product that is
not listed is exact. -/
theorem binary64DiffersOnTwelvePairs : Obligations.Binary64DiffersOnTwelvePairs := by
  unfold Obligations.Binary64DiffersOnTwelvePairs
  intro c bright hc hb pairs
  by_cases hmem : (c, bright) ∈ pairs
  · rw [if_pos hmem]
    exact scale_of_oneLess (c, bright) hmem
  · have hfield : fitsField bright = true := decide_eq_true (by omega)
    have hchannel : (BitVec.ofNat 8 c).toNat = c := by rw [BitVec.toNat_ofNat, Nat.mod_eq_of_lt hc]
    rw [if_neg hmem, Nat.sub_zero]
    rcases binary64IsExactOrOneLess (BitVec.ofNat 8 c) bright hfield with heq | ⟨-, hmod⟩
    · rw [heq]
    · rw [hchannel] at hmod
      have hproduct := (scaledDouble_of_integer hc hb (Nat.dvd_of_mod_eq_zero (mod_cast hmod))).resolve_right hmem
      rw [scale, scale, hchannel, hproduct]

/-- Half of a channel, under either numerics: for `binary64` the 256 products are run. -/
theorem scale_fifty (num : Numerics) (c : Byte) : scale num c 50 = BitVec.ofNat 8 (c.toNat / 2) := by
  have hlt : c.toNat / 2 < 256 := by omega
  cases num with
  | exact =>
    have hproduct : scaledExact c.toNat 50 = (c.toNat / 2 : Nat) := by
      rw [scaledExact_of_nonneg _ (by decide)]
      omega
    rw [scale, hproduct, clampChannel_natCast hlt]
  | binary64 =>
    have hproduct : ∀ n < 256, scaledDouble n 50 = (n / 2 : Nat) := by decide +kernel
    rw [scale, hproduct c.toNat c.isLt, clampChannel_natCast hlt]

theorem scale_fifty_twice (num : Numerics) (c : Byte) :
    scale num (scale num c 50) 50 = BitVec.ofNat 8 (c.toNat / 4) := by
  have hlt : c.toNat / 2 < 2 ^ 8 := by omega
  rw [scale_fifty, scale_fifty, BitVec.toNat_ofNat, Nat.mod_eq_of_lt hlt, Nat.div_div_eq_div_mul]

/-- Settles O43: twice a half is a quarter, and a quarter of 4 is not its half. -/
theorem transformIsNotIdempotent : Obligations.TransformIsNotIdempotent := by
  unfold Obligations.TransformIsNotIdempotent
  intro num
  refine ⟨⟨1, 1, [⟨4, 4, 4⟩]⟩, ?_, fun g' _ => ?_⟩
  · simp [transform, transformPixel, chan, scale_fifty]
  · simp [transform, transformPixel, chan, scale_fifty_twice]

/-! ### `XFORM` (R201, R208, R209) -/

theorem transform_getElem? (num : Numerics) (b : Int) (er eg eb : Bool) (g : Grid) (k : Nat) :
    (transform num b er eg eb g).px[k]? = g.px[k]?.map (transformPixel num b er eg eb) := List.getElem?_map ..

/-- Settles O40: `XFORM` writes the transformed pixels from address 0. -/
theorem xformMasksAndScales : Obligations.XformMasksAndScales := by
  unfold Obligations.XformMasksAndScales
  intro b er eg eb s g ho hg
  obtain ⟨hw, hh, hpx, hslice⟩ := gridOf_ok hg
  obtain ⟨-, hread⟩ := slice_eq_ok_iff.1 hslice
  have hexec : exec (.xform b er eg eb) s = _ := xform_eq ho hg b er eg eb
  rw [xformEnd_eq] at hexec
  refine ⟨_, hexec, fun a ha => ?_, fun a ha => read_writeAll_beyond s.tgrid _ ?_, ?_⟩
  · have hp := List.getElem?_eq_getElem (hpx ▸ ha)
    refine ⟨g.px[a], (hread a ha).trans hp, read_stored s.tgrid ?_⟩
    rw [transform_getElem?, hp]
    rfl
  · rwa [transform_px_length, hpx]
  · simp only [endsWell, transform_w, transform_h, hw, hh]

/-- Settles O41: at brightness 100 the grid written is the grid read. -/
theorem xformIdIsTheIdentity : Obligations.XformIdIsTheIdentity := by
  unfold Obligations.XformIdIsTheIdentity
  intro s g ho hg
  obtain ⟨hw, hh, hpx, -⟩ := gridOf_ok hg
  have hexec : exec .xformId s = _ := xform_eq ho hg 100 true true true
  rw [transform_hundred, xformEnd_eq] at hexec
  refine ⟨rfl, _, hexec, gridOf_writeAll s.tgrid (gridOf_size hg),
    fun a ha => read_writeAll_beyond s.tgrid _ (hpx ▸ ha), ?_⟩
  simp only [endsWell, hw, hh]

/-- A grid written over one of the same number of pixels leaves nothing of it. -/
theorem xformEnd_xformEnd {g g' : Grid} (hwf : Memory.wf s.tgrid) (hlen : g.px.length = g'.px.length) :
    xformEnd g' (xformEnd g s) = xformEnd g' s := by
  simp only [xformEnd_eq, endsWell, writeAll_writeAll hwf 0 hlen]

/-- Settles O42: both commands read the same OGRID, and the second writes over all the first has written. -/
theorem xformsDoNotCompose : Obligations.XformsDoNotCompose := by
  unfold Obligations.XformsDoNotCompose
  intro b b' er eg eb er' eg' eb' s t hwf ho hx
  rcases xform_cases hx with ⟨bit, hm, -⟩ | ⟨-, g, hg, ht⟩
  · rw [missingXform_none.2 ho] at hm
    cases hm
  · obtain rfl : t = xformEnd (transform s.cfg.numerics b er eg eb g) s := ht
    have hsecond := xform_eq (s := xformEnd (transform s.cfg.numerics b er eg eb g) s) (by simpa using ho)
      (by simpa using hg) b' er' eg' eb'
    rw [xformEnd_cfg, xformEnd_xformEnd hwf (by simp)] at hsecond
    exact hsecond.trans (xform_eq ho hg b' er' eg' eb').symm

end Sys2Proof.Machine

/-! ## The resampler: the nearest-neighbour mapping, and what `RESIZE` does -/

namespace Sys2Proof.Machine

variable {s : State}

/-! ### The nearest-neighbour mapping (R224 to R226) -/

theorem sourceCoord_lt {n new x : Nat} (hn : 1 ≤ n) (hx : x < new) : sourceCoord n new x < n :=
  Nat.div_lt_of_lt_mul (Nat.mul_lt_mul_of_pos_right hx hn)

/-- Settles O46: a target coordinate's share of the new dimension is below 1, and so is the source coordinate's. -/
theorem resizeStaysInBounds : Obligations.ResizeStaysInBounds := by
  unfold Obligations.ResizeStaysInBounds
  intro n percent x hn _ hx
  exact sourceCoord_lt hn hx

/-- The place of pixel `(x, y)` lies inside the grid (R36). -/
theorem pixelPlace_lt {w h x y : Nat} (hx : x < w) (hy : y < h) : y * w + x < w * h := calc
  y * w + x < y * w + w := Nat.add_lt_add_left hx _
  _ = (y + 1) * w := (Nat.succ_mul y w).symm
  _ ≤ h * w := Nat.mul_le_mul_right w hy
  _ = w * h := Nat.mul_comm h w

/-- Inside a grid read from memory, pixel `(x, y)` is what the memory holds at its place (R36, R70). -/
theorem read_pixelAt {m : Memory RGB} {w h x y : Nat} {g : Grid} (hg : gridOf m w h = .ok g) (hx : x < w)
    (hy : y < h) : Memory.read m (y * w + x) = some (pixelAt g x y) := by
  obtain ⟨rfl, rfl, hpx, hslice⟩ := gridOf_ok hg
  obtain ⟨-, hread⟩ := slice_eq_ok_iff.1 hslice
  have hplace := pixelPlace_lt hx hy
  have hin : y * g.w + x < g.px.length := hpx ▸ hplace
  rw [hread _ hplace, pixelAt, List.getD_eq_getElem _ _ hin, List.getElem?_eq_getElem hin]

/-- Target pixel `(x, y)` has its place in the resampled grid (R36, R224). -/
theorem resample_getElem? (g : Grid) {nw nh x y : Nat} (hx : x < nw) (hy : y < nh) :
    (resample g nw nh).px[y * nw + x]? = some (pixelAt g (sourceCoord g.w nw x) (sourceCoord g.h nh y)) :=
  pixelRows_getElem? (pixel := fun y x => pixelAt g (sourceCoord g.w nw x) (sourceCoord g.h nh y)) hx hy

/-! ### The capacity test (R228) -/

/-- From 1 percent on only the capacity test stands before the mapping (R223, R228). -/
theorem resize_of_pos {p : Nat} (cap : Capacity) (hp : 1 ≤ p) (g : Grid) :
    resize cap p g = if !fits cap (newDim g.w p * newDim g.h p) then .error ⟨.capacityExceeded, 3⟩
      else .ok (resample g (newDim g.w p) (newDim g.h p)) :=
  if_neg (Int.not_le.2 (Int.natCast_pos.2 hp))

/-! ### `RESIZE` (R221) -/

/-- Where the percentage is not above 0, TGRID need not be readable (R222). -/
theorem resize_degenerate_eq (ht : s.status.tgridValid = true) {p : Int} (hp : p ≤ 0) :
    resizeCommand p s = .next (resizeEnd (.ok ⟨1, 1, [RGB.black]⟩) s) :=
  frame_finish (x := ()) (f := fun _ => .ok (⟨1, 1, [RGB.black]⟩ : Grid)) (k := 5) (start := startWith clearRgrid)
    (store := storeRgrid) (missingResize_none.2 ht) (if_pos hp)

/-- Settles O44: one black pixel is written at address 0, whatever TGRID holds. -/
theorem resizeDegenerateIsBlack : Obligations.ResizeDegenerateIsBlack := by
  unfold Obligations.ResizeDegenerateIsBlack
  intro p s hp ht
  have hexec : exec (.resize p) s = _ := resize_degenerate_eq ht hp
  rw [resizeEnd_ok] at hexec
  refine ⟨_, hexec, fun a => ?_, rfl⟩
  split
  · next ha => subst ha; exact read_stored s.rgrid rfl
  · next ha => exact read_writeAll_beyond s.rgrid _ (Nat.one_le_iff_ne_zero.2 ha)

/-- Settles O45: the capacity test comes first, and the pixels written from address 0 are copies of TGRID's. -/
theorem resizeMapsNearestNeighbours : Obligations.ResizeMapsNearestNeighbours := by
  unfold Obligations.ResizeMapsNearestNeighbours
  intro p s g hp ht hg hw hh nw nh
  obtain ⟨hgw, hgh, -, -⟩ := gridOf_ok hg
  have hnw : newDim g.w p = nw := congrArg (newDim · p) hgw
  have hnh : newDim g.h p = nh := congrArg (newDim · p) hgh
  have hexec : exec (.resize p) s = _ := resize_eq ht hg p
  rw [resize_of_pos _ hp, hnw, hnh] at hexec
  constructor
  · intro hcap
    rw [hcap] at hexec
    refine ⟨_, hexec.trans (congrArg _ (resizeEnd_ok _ s)), fun y hy x hx => ?_,
      fun a ha => read_writeAll_beyond s.rgrid _ (by rwa [resample_px_length]), rfl⟩
    have htarget := read_stored s.rgrid (resample_getElem? g hx hy)
    have hsource := read_pixelAt hg (sourceCoord_lt hw hx) (sourceCoord_lt hh hy)
    rw [hgw, hgh] at htarget
    exact ⟨Option.isSome_of_eq_some htarget, htarget.trans hsource.symm⟩
  · intro hcap
    rw [hcap] at hexec
    exact hexec.trans (congrArg _ (resizeEnd_error _ s))

end Sys2Proof.Machine

/-! ## `ERR_SEEN` (R276)

Whatever a framed command does, it ends in `succeed`, with code 0, or in `takeError`, which sets the bit. That the bit
stays needs more: what a stage clears and stores leaves it, which the `…_cases` lemmas show. -/

namespace Sys2Proof.Machine

variable {s t : State}

/-! ### A command that ends in error sets the bit -/

theorem frame_error_sets_errSeen {missing : Option Nat} {start : State → State} {k : BitVec 4}
    {work : State → StageEnd} (hx : frame missing start k work s = .next t) (hc : t.err.code ≠ 0) :
    t.status.errSeen = true := by
  rcases frame_next_iff.1 hx with ⟨bit, -, rfl⟩ | ⟨-, ⟨u, -, rfl⟩ | ⟨e, -, rfl⟩⟩
  · exact takeError_status_errSeen ..
  · exact absurd rfl hc
  · exact takeError_status_errSeen ..

/-- The last stage of an instruction is what reports. -/
theorem exec_error_sets_errSeen {i : Instr} (hi : i.wf = true) (hx : exec i s = .next t) :
    t.err.code ≠ 0 → t.status.errSeen = true :=
  exec_relation (R := fun _ t => t.err.code ≠ 0 → t.status.errSeen = true) (fun _ h => h) frame_error_sets_errSeen
    frame_error_sets_errSeen frame_error_sets_errSeen (fun _ => frame_error_sets_errSeen)
    (fun _ => frame_error_sets_errSeen) frame_error_sets_errSeen hi hx

theorem step_issue_error_sets_errSeen {w : Word} {rest : List HostAction} (hp : s.pending = .issue w :: rest)
    (hb : s.status.busy = false) (hx : step s = .next t) (hc : t.err.code ≠ 0) : t.status.errSeen = true := by
  cases hd : decode w with
  | ok i =>
    rw [step_legal hp hb hd] at hx
    obtain ⟨u, hu, hx⟩ := andThen_next_iff.1 hx
    cases hx
    exact exec_error_sets_errSeen (t := u) (decode_wf hd) hu hc
  | error r =>
    rw [step_illegal hp hb hd] at hx
    cases hx
    exact takeError_status_errSeen ..

/-! ### Nothing but reset clears the bit -/

theorem succeed_keeps_errSeen {u : State} (h : u.status.errSeen = true) : (succeed u).status.errSeen = true :=
  (succeed_status_errSeen u).trans h

theorem hparse_keeps_errSeen (h : s.status.errSeen = true) (hx : hparseCommand s = .next t) :
    t.status.errSeen = true := by
  rcases hparse_cases hx with ⟨bit, -, rfl⟩ | ⟨-, buf, -, ⟨m, -, rfl⟩ | ⟨e, -, rfl⟩⟩
  · exact takeError_status_errSeen ..
  · exact succeed_keeps_errSeen h
  · exact takeError_status_errSeen ..

theorem palrd_keeps_errSeen (h : s.status.errSeen = true) (hx : palrdCommand s = .next t) :
    t.status.errSeen = true := by
  rcases palrd_cases hx with
    ⟨bit, -, rfl⟩ | ⟨-, -, ⟨-, rfl⟩ | ⟨-, buf, -, ⟨p, -, rfl⟩ | ⟨e, -, rfl⟩⟩⟩
  · exact takeError_status_errSeen ..
  · exact succeed_keeps_errSeen h
  · exact succeed_keeps_errSeen h
  · exact takeError_status_errSeen ..

theorem pxdec_keeps_errSeen (h : s.status.errSeen = true) (hx : pxdecCommand s = .next t) :
    t.status.errSeen = true := by
  rcases pxdec_cases hx with
    ⟨bit, -, rfl⟩ | ⟨-, -, -, d, pal, buf, -, -, -, ⟨g, -, rfl⟩ | ⟨e, -, rfl⟩⟩
  · exact takeError_status_errSeen ..
  · exact succeed_keeps_errSeen h
  · exact takeError_status_errSeen ..

theorem xform_keeps_errSeen {b : Int} {er eg eb : Bool} (h : s.status.errSeen = true)
    (hx : xformCommand b er eg eb s = .next t) : t.status.errSeen = true := by
  rcases xform_cases hx with ⟨bit, -, rfl⟩ | ⟨-, g, -, rfl⟩
  · exact takeError_status_errSeen ..
  · exact succeed_keeps_errSeen h

theorem resize_keeps_errSeen {p : Int} (h : s.status.errSeen = true) (hx : resizeCommand p s = .next t) :
    t.status.errSeen = true := by
  rcases resize_cases hx with
    ⟨bit, -, rfl⟩ | ⟨-, ⟨-, rfl⟩ | ⟨-, g, -, ⟨r, -, rfl⟩ | ⟨e, -, rfl⟩⟩⟩
  · exact takeError_status_errSeen ..
  · exact succeed_keeps_errSeen h
  · exact succeed_keeps_errSeen h
  · exact takeError_status_errSeen ..

theorem ppmenc_keeps_errSeen (h : s.status.errSeen = true) (hx : ppmencCommand s = .next t) :
    t.status.errSeen = true := by
  rcases ppmenc_cases hx with ⟨bit, -, rfl⟩ | ⟨-, g, -, ⟨l, -, rfl⟩ | ⟨e, -, rfl⟩⟩
  · exact takeError_status_errSeen ..
  · exact succeed_keeps_errSeen h
  · exact takeError_status_errSeen ..

theorem exec_keeps_errSeen {i : Instr} (hi : i.wf = true) (h : s.status.errSeen = true) (hx : exec i s = .next t) :
    t.status.errSeen = true :=
  exec_keeps (P := fun s => s.status.errSeen = true) hparse_keeps_errSeen palrd_keeps_errSeen pxdec_keeps_errSeen
    (fun _ => xform_keeps_errSeen) (fun _ => resize_keeps_errSeen) ppmenc_keeps_errSeen hi h hx

/-- R46, R48, R49: a load, a host read and an ignored write leave the bit. -/
theorem perform_keeps_errSeen {a : HostAction} (ha : a ≠ .reset) (h : s.status.errSeen = true)
    (hx : perform a s = .next t) : t.status.errSeen = true := by
  rcases perform_cases hx with
    ⟨bytes, -, -, -, rfl⟩ | ⟨d, n, rfl⟩ | ⟨rfl, -⟩ | ⟨w, i, u, -, -, hi, hu, rfl⟩ | ⟨w, r, -, -, -, rfl⟩ | ⟨hr, -⟩
  · exact h
  · exact h
  · exact h
  · exact exec_keeps_errSeen (t := u) (decode_wf hi) h hu
  · exact takeError_status_errSeen ..
  · exact absurd hr ha

theorem step_keeps_errSeen (hx : step s = .next t) (h : s.status.errSeen = true)
    (hr : ∀ rest, s.pending ≠ .reset :: rest) : t.status.errSeen = true := by
  rcases step_cases hx with ⟨-, rfl⟩ | ⟨a, rest, hp, ha⟩
  · exact h
  · exact perform_keeps_errSeen (s := { s with pending := rest }) (fun hreset => hr rest (hreset ▸ hp)) h ha

theorem step_reset_clears_errSeen {rest : List HostAction} (hp : s.pending = .reset :: rest)
    (hx : step s = .next t) : t.status.errSeen = false := by
  rw [step_cons hp] at hx
  cases hx
  rfl

/-- Settles O17: every error is taken by `takeError`, which sets the bit, and only `resetCore` clears it. -/
theorem errSeenIsSticky : Obligations.ErrSeenIsSticky := by
  unfold Obligations.ErrSeenIsSticky
  exact ⟨fun _ _ _ => exec_error_sets_errSeen, fun _ _ _ _ => step_issue_error_sets_errSeen,
    fun _ _ => step_keeps_errSeen, fun _ _ _ => step_reset_clears_errSeen⟩

end Sys2Proof.Machine

/-! ## When a `LOADBUF` is refused (R46, U3, U11)

The two refusals are the model's own stops (log 7, log 8); with `perform_loadbuf`, each branch of `loadbuf` has its
equation. -/

namespace Sys2Proof.Machine

variable {s : State} {bytes : List Byte}

theorem perform_loadbuf_busy (hb : s.status.busy = true) :
    perform (.loadbuf bytes) s = .refused .loadWhileBusy := by
  simp [perform, loadbuf, hb]

theorem perform_loadbuf_too_long (hb : s.status.busy = false) (hf : fits s.cfg.ibufCap bytes.length = false) :
    perform (.loadbuf bytes) s = .refused .fileTooLong := by
  simp [perform, loadbuf, hb, hf]

/-- Settles O9: the step performs the load, which looks at `BUSY` first and then at the file's length. -/
theorem loadbufRefusals : Obligations.LoadbufRefusals := by
  unfold Obligations.LoadbufRefusals
  intro s bytes rest hp
  rw [step_cons hp]
  exact ⟨perform_loadbuf_busy (s := { s with pending := rest }),
    perform_loadbuf_too_long (s := { s with pending := rest })⟩

end Sys2Proof.Machine
